-- ==== Sys2Proof/Word.lean ====
section
/-! DEFINITION. The word types of the block: a word is 32 bits, bit 0 the least significant (spec/00_scope.md R7); a byte is one
lane of it (spec/20_memory.md R54); a number is what a stored word denotes (R9). -/

namespace Sys2Proof

/-- A 32-bit word (R7). -/
abbrev Word := BitVec 32

/-- One byte lane of a word (R54). -/
abbrev Byte := BitVec 8

/-- The numbers of this hardware's numeric instance: binary32 encodings (R10: `fromBits` and `toBits` are the identity on the
encoding), so a number is its word. -/
abbrev Number := Word

/-- `F(w)` of R8: the number a stored word denotes. -/
abbrev Number.fromBits (w : Word) : Number := w

/-- `W(x)` of R8: the word that stores the number x. -/
abbrev Number.toBits (x : Number) : Word := x

end Sys2Proof
end

