-- ==== Sys2Proof/Syntax.lean ====
section
/-! DEFINITION. The syntax of the block: its stages (spec/10_state.md R20), its instructions (one constructor per row of
spec/opcode_table.json), the two fixed-width code words they are encoded in (spec/30_encoding.md R69), and the locations of its
register map (R21). -/

namespace Sys2Proof

/-- One unit of engine work; a command names a list of stages (spec/10_state.md R20, spec/30_encoding.md R73). -/
inductive Stage where
  | nop
  | window
  | autocorr
  | condition
  | recurse
  | softreset
deriving DecidableEq, Repr

/-- The instructions. `size` is the SIZE code of R71, `addr` the byte offset ADDR, `data` WDATA. A read carries no WDATA: the
block ignores it (R70). The eight commands have no operand fields (R77). -/
inductive Instr where
  | regRead (size : BitVec 2) (addr : Nat)
  | regWrite (size : BitVec 2) (addr : Nat) (data : Word)
  | nop
  | window
  | autocorr
  | condition
  | recurse
  | levinson
  | analyze
  | softreset
deriving DecidableEq, Repr

/-- The two formats (R69): a 49-bit host request and a 32-bit command word. -/
inductive CodeWord where
  | hostreq (w : BitVec 49)
  | cmd (w : Word)
deriving DecidableEq, Repr

/-- Why a code word is no instruction, by name. -/
inductive Reject where
  /-- A command word with OP 0x8–0xF or a nonzero reserved bit: the verdict `Illegal` of R74. -/
  | illegalCmd
deriving DecidableEq, Repr

/-- What decoding a code word gives. -/
inductive Decoded where
  | instr (i : Instr)
  | reject (r : Reject)
deriving DecidableEq, Repr

/-- A location of the register map (spec/10_state.md R21); arrays carry their index. -/
inductive Loc where
  | id
  | ctrl
  | cfgN
  | cfgP
  | cmd
  | status
  | errinfo
  | nfAdd
  | nfMul
  | err
  | ac (k : Nat)
  | lagw (k : Nat)
  | lpc (j : Nat)
  | rc (j : Nat)
  | x (i : Nat)
  | win (i : Nat)
  | xw (i : Nat)
deriving DecidableEq, Repr

end Sys2Proof
end

