-- ==== Sys2Proof/WellFormed.lean ====
section
/-! DEFINITION. Well-formed instructions: those an encoding can name. The one field wider in the syntax than in the request word
is ADDR, a 14-bit byte offset (spec/30_encoding.md R70, spec/20_memory.md R53). -/

namespace Sys2Proof

/-- The offset lies in the 16 KiB register space (R53). -/
abbrev addrWellFormed (addr : Nat) : Bool := decide (addr < 0x4000)

/-- The check of an instruction; commands have no operands (spec/30_encoding.md R77), so every command passes it. -/
def Instr.wellFormed : Instr → Bool
  | .regRead _ addr => addrWellFormed addr
  | .regWrite _ addr _ => addrWellFormed addr
  | .nop => true
  | .window => true
  | .autocorr => true
  | .condition => true
  | .recurse => true
  | .levinson => true
  | .analyze => true
  | .softreset => true

end Sys2Proof
end

