-- ==== Sys2Proof/Decode.lean ====
section
/-! DEFINITION. Decoding (spec/30_encoding.md R69 to R80), total on both formats and rejecting by name, and the encoder, written
from the same layouts (R70, R72, R73, R83). -/

namespace Sys2Proof

/-- WE, bit 48 of a request (R70). -/
def reqWe (w : BitVec 49) : Bool := w.getLsbD 48

/-- SIZE, bits 47:46 (R70). -/
def reqSize (w : BitVec 49) : BitVec 2 := w.extractLsb' 46 2

/-- ADDR, bits 45:32, as the byte offset it names (R70). -/
def reqAddr (w : BitVec 49) : Nat := (w.extractLsb' 32 14).toNat

/-- WDATA, bits 31:0 (R70). -/
def reqData (w : BitVec 49) : Word := w.extractLsb' 0 32

/-- Decoding of HOSTREQ: total, by WE alone (R80). -/
def decodeReq (w : BitVec 49) : Instr :=
  if reqWe w then .regWrite (reqSize w) (reqAddr w) (reqData w) else .regRead (reqSize w) (reqAddr w)

/-- OP, bits 3:0 of a command word (R72). -/
def cmdOp (w : Word) : BitVec 4 := w.extractLsb' 0 4

/-- RSV, bits 31:4 of a command word (R72). -/
def cmdRsv (w : Word) : BitVec 28 := w.extractLsb' 4 28

/-- Decoding of a command word, `decodeCmd` of R74: total on all 2^32 words, `reject illegalCmd` being the verdict `Illegal`. -/
def decodeCmd (w : Word) : Decoded :=
  if cmdRsv w ≠ 0 then .reject .illegalCmd
  else if cmdOp w = 0x0 then .instr .nop
  else if cmdOp w = 0x1 then .instr .window
  else if cmdOp w = 0x2 then .instr .autocorr
  else if cmdOp w = 0x3 then .instr .condition
  else if cmdOp w = 0x4 then .instr .recurse
  else if cmdOp w = 0x5 then .instr .levinson
  else if cmdOp w = 0x6 then .instr .analyze
  else if cmdOp w = 0x7 then .instr .softreset
  else .reject .illegalCmd

/-- The stage list a command names (R73, R74); a host access names none. -/
def stagesOf : Instr → List Stage
  | .regRead _ _ => []
  | .regWrite _ _ _ => []
  | .nop => [.nop]
  | .window => [.window]
  | .autocorr => [.autocorr]
  | .condition => [.condition]
  | .recurse => [.recurse]
  | .levinson => [.condition, .recurse]
  | .analyze => [.window, .autocorr, .condition, .recurse]
  | .softreset => [.softreset]

/-- The stages of a command word, empty exactly where the word is illegal. -/
def stagesOfWord (w : Word) : List Stage :=
  match decodeCmd w with
  | .instr i => stagesOf i
  | .reject _ => []

/-- Decoding of a code word of either format. -/
def decode : CodeWord → Decoded
  | .hostreq w => .instr (decodeReq w)
  | .cmd w => decodeCmd w

/-- The instruction the host issues with a code word. An illegal command word is no command: what the host then issues is the
write of it to CMD (offset 0x010), which the access check rejects (R74, R75). -/
def instrOf (c : CodeWord) : Instr :=
  match decode c with
  | .instr i => i
  | .reject _ =>
    match c with
    | .hostreq w => decodeReq w
    | .cmd w => .regWrite 2 0x010 w

/-- The request word `{WE, SIZE, ADDR, WDATA}` (R70, R83). -/
def packReq (we : Bool) (size : BitVec 2) (addr : Nat) (data : Word) : BitVec 49 :=
  BitVec.ofBool we ++ size ++ BitVec.ofNat 14 addr ++ data

/-- The command word of an instruction: its OP with the reserved bits 0 (R72, R73); a host access has none (0 stands there). -/
def commandWord : Instr → Word
  | .regRead _ _ => 0x0
  | .regWrite _ _ _ => 0x0
  | .nop => 0x0
  | .window => 0x1
  | .autocorr => 0x2
  | .condition => 0x3
  | .recurse => 0x4
  | .levinson => 0x5
  | .analyze => 0x6
  | .softreset => 0x7

/-- The encoder: the code word of a well-formed instruction. A read is written with WDATA = 0, as the assembler writes it (R81). -/
def encode : Instr → CodeWord
  | .regRead size addr => .hostreq (packReq false size addr 0)
  | .regWrite size addr data => .hostreq (packReq true size addr data)
  | .nop => .cmd (commandWord .nop)
  | .window => .cmd (commandWord .window)
  | .autocorr => .cmd (commandWord .autocorr)
  | .condition => .cmd (commandWord .condition)
  | .recurse => .cmd (commandWord .recurse)
  | .levinson => .cmd (commandWord .levinson)
  | .analyze => .cmd (commandWord .analyze)
  | .softreset => .cmd (commandWord .softreset)

/-- The code word of a row of spec/opcode_table.json, by its number of bits: the table has 32-bit CMD rows and 49-bit HOSTREQ
rows (56 in whole bytes). -/
def tableCode (nbits w : Nat) : CodeWord :=
  if nbits ≤ 32 then .cmd (BitVec.ofNat 32 w) else .hostreq (BitVec.ofNat 49 w)

/-- Whether a number fits the format its row is in. -/
def tableFits (nbits w : Nat) : Bool :=
  if nbits ≤ 32 then decide (w < 2 ^ 32) else decide (w < 2 ^ 49)

/-- The instruction the decoder reads from an instruction of the opcode table whose bits are `w`. -/
def decodeTableWord (nbits w : Nat) : Option Instr :=
  if tableFits nbits w then
    match decode (tableCode nbits w) with
    | .instr i => some i
    | .reject _ => none
  else none

end Sys2Proof
end

