-- ==== Sys2Proof/Config.lean ====
section
/-! DEFINITION. What an instance of the block fixes (spec/00_scope.md R6) and what the spec leaves open: the free values. -/

namespace Sys2Proof

/-- N_MAX, the capacity of X, WIN and XW in samples: 1024 on this hardware (R6). -/
abbrev Config.nMax : Nat := 1024

/-- P_MAX, the maximum LPC order: 16 on this hardware (R6). -/
abbrev Config.pMax : Nat := 16

/-- The rounded operations of the numeric configuration that can produce a NaN (R9, R10). -/
inductive NumOp where
  | add
  | sub
  | mul
  | div
deriving DecidableEq, Repr

/-- FREE VALUE. The sign bit and the fraction (less one) of the NaN that an operation produces on its two operands: the spec
leaves the payload unspecified (R10; spec/93_implementation_defined.md I3). No body: nothing can be proved of its value. It is a
function of the operation and the operands because the numeric configuration is a record of total functions (R9); log entries 3
and 10. -/
opaque Config.nanDraw : NumOp → Number → Number → Bool × Fin 8388607

/-- OPEN. The platform's address of register offset 0 (spec/20_memory.md R58). -/
opaque Config.base : Nat

/-- OPEN. The platform's interrupt line that irq is connected to (spec/60_exceptions.md R150). -/
opaque Config.irqLine : Nat

end Sys2Proof
end

