-- ==== Sys2Proof/Machine/State.lean ====
section
/-! DEFINITION. The state of one block instance (spec/10_state.md R20), with the surroundings its two agents act in (the host
program, the schedule, the reset pin, the bus response), its value after reset (R45), and the ways a step can stop. -/

namespace Sys2Proof.Machine

/-- The error codes of spec/60_exceptions.md R143; 8 to 15 are never recorded, so a code is one of these (93 I10). -/
inductive ErrCode where
  | none
  | size
  | misaligned
  | unmapped
  | busy
  | readonly
  | badParam
  | illegalCmd
deriving DecidableEq, Repr

/-- The response to a request: `{ERR, RDATA}` (spec/30_encoding.md R70). -/
structure Response where
  err : Bool
  rdata : Word
deriving DecidableEq, Repr

/-- A statement of a host program (spec/30_encoding.md R81, R82; spec/43_control_ops.md R139). -/
inductive HostStmt where
  /-- Issue a code word: a request, or a command word, which the CMD write that carries it issues (log entry 2). -/
  | code (c : CodeWord)
  /-- `wait`: read STATUS until BUSY reads 0 (R82). -/
  | wait
deriving DecidableEq, Repr

/-- Who acts next: the two agents (spec/00_scope.md R13) and the two edges of the reset pin (spec/70_reset_and_hazards.md R163). -/
inductive Turn where
  | host
  | engine
  | pinRise
  | pinFall
deriving DecidableEq, Repr

/-- The storage of the arrays: cells of the one address space (spec/20_memory.md R53), addresses strictly rising, none equal to
what an unlisted address reads as. -/
abbrev Memory := List Host.Cell

structure State where
  /-- CTRL.WINEN (R23). -/
  winen : Bool
  /-- CTRL.INFMT (R23). -/
  infmt : Bool
  /-- CTRL.IE (R23). -/
  ie : Bool
  /-- CFG_N, the analysis length (R24). -/
  n : Nat
  /-- CFG_P, the LPC order (R25). -/
  p : Nat
  /-- CMD, the last accepted command word (R26). -/
  cmd : Word
  /-- STATUS.DONE (R27). -/
  done : Bool
  /-- STATUS.ZERO (R27). -/
  zero : Bool
  /-- STATUS.DEGEN (R27). -/
  degen : Bool
  /-- STATUS.UNSTABLE (R27). -/
  unstable : Bool
  /-- STATUS.NONFINITE (R27). -/
  nonfinite : Bool
  /-- ERRINFO.CODE (R28). -/
  ecode : ErrCode
  /-- ERRINFO.ADDR (R28). -/
  eaddr : BitVec 14
  /-- ERRINFO.WR (R28). -/
  ewr : Bool
  /-- ERRINFO.OVERRUN (R28). -/
  eovr : Bool
  /-- NF_ADD (R29). -/
  nfAdd : Word
  /-- NF_MUL (R30). -/
  nfMul : Word
  /-- ERR (R31). -/
  err : Word
  /-- AC, LAGW, LPC, RC, X, WIN, XW at their offsets (R32 to R38). -/
  mem : Memory
  /-- The stages of the accepted command not yet performed, in order (R40). -/
  pending : List Stage
  /-- The model's own: the host's statements not yet issued (spec/43_control_ops.md R139). -/
  program : List HostStmt
  /-- The model's own: the order of the coming turns, which the hardware does not fix (spec/00_scope.md R14). -/
  schedule : List Turn
  /-- The model's own: the level of the reset pin (spec/70_reset_and_hazards.md R163). -/
  pinHeld : Bool
  /-- The model's own: the response to the last access that was answered (spec/30_encoding.md R70). -/
  response : Option Response
deriving DecidableEq, Repr

/-- Why the machine stops. No input, data or command stops it (spec/00_scope.md R16); one host move has no meaning. -/
inductive Fault where
  /-- Raised by a host turn that has a statement to issue while the reset pin is held: the spec gives such an access no response
  and the host no step (spec/70_reset_and_hazards.md R163, spec/93_implementation_defined.md I12: stuck). Safe. -/
  | accessWhileReset
deriving DecidableEq, Repr

/-- Why an instruction is refused. -/
inductive Refusal where
  /-- Raised by an arm of exec whose instruction has no meaning yet; no arm raises it now. Safe. -/
  | notModelled (mnemonic : String)
deriving DecidableEq, Repr

/-- The machine right after reset: every field of R45, nothing listed in memory (an unlisted cell reads as its reset contents),
and surroundings in which nothing is asked of the block (log entry 9). -/
def State.reset : State where
  winen := true
  infmt := false
  ie := false
  n := 240
  p := 10
  cmd := 0x00000000
  done := false
  zero := false
  degen := false
  unstable := false
  nonfinite := false
  ecode := .none
  eaddr := 0
  ewr := false
  eovr := false
  nfAdd := 0x41200000
  nfMul := 0x3F800347
  err := 0x00000000
  mem := []
  pending := []
  program := []
  schedule := []
  pinHeld := false
  response := none

end Sys2Proof.Machine
end

