-- ==== Sys2Proof/Machine/Num.lean ====
section
/-! DEFINITION. The numeric instance of this hardware (spec/00_scope.md R9, R10): IEEE 754 binary32, round to nearest, ties to
even, subnormals kept, no operation traps. A finite magnitude is a whole number of units of 2^-149, so every operation is computed
exactly on natural numbers and rounded once, at the end, by `F32.round`. -/

namespace Sys2Proof.Machine

/-- `zero` = +0 (R10). -/
def F32.zero : Number := 0x00000000

/-- `one` = 1.0 (R10). -/
def F32.one : Number := 0x3F800000

/-- The sign bit. -/
def F32.sign (x : Number) : Bool := x.msb

/-- Bits 30:0: the encoding without its sign, which orders magnitudes. -/
def F32.mag (x : Number) : Nat := x.toNat % 2 ^ 31

/-- The magnitude of the encodings of ±infinity. -/
def F32.infMag : Nat := 0x7F800000

/-- The biased exponent field. -/
def F32.expo (x : Number) : Nat := F32.mag x / 2 ^ 23

/-- The fraction field. -/
def F32.frac (x : Number) : Nat := x.toNat % 2 ^ 23

/-- False exactly for ±infinity and NaN (R10). -/
def F32.isFinite (x : Number) : Bool := decide (F32.mag x < F32.infMag)

/-- ±infinity. -/
def F32.isInf (x : Number) : Bool := decide (F32.mag x = F32.infMag)

/-- A NaN. -/
def F32.isNaN (x : Number) : Bool := decide (F32.infMag < F32.mag x)

/-- ±0. -/
def F32.isZero (x : Number) : Bool := decide (F32.mag x = 0)

/-- The magnitude of a finite number in units of 2^-149: subnormals are their fraction, normals have the hidden bit. -/
def F32.units (x : Number) : Nat :=
  if F32.expo x = 0 then F32.frac x else (2 ^ 23 + F32.frac x) * 2 ^ (F32.expo x - 1)

/-- A finite number in units of 2^-149. -/
def F32.signedUnits (x : Number) : Int := if F32.sign x then -(F32.units x : Int) else (F32.units x : Int)

/-- The word with a sign and a magnitude encoding. -/
def F32.pack (neg : Bool) (mag : Nat) : Number := BitVec.ofNat 32 ((if neg then 2 ^ 31 else 0) + mag)

/-- The exponent shift that keeps 24 significant bits of a quotient whose whole part is `q`; none is needed below 2^24. -/
def F32.shiftOf (q : Nat) : Nat := if q < 2 ^ 24 then 0 else q.log2 - 23

/-- The quotient num/den rounded to the nearest whole number, a tie to the even one. -/
def F32.nearestEven (num den : Nat) : Nat :=
  if den < 2 * (num % den) ∨ (2 * (num % den) = den ∧ num / den % 2 = 1) then num / den + 1 else num / den

/-- The magnitude encoding nearest to num/den units (R10: round to nearest, ties to even), infinity where it overflows. The
rounded significand carries into the exponent field when it reaches 2^24. -/
def F32.roundMag (num den : Nat) : Nat :=
  let sh := F32.shiftOf (num / den)
  min F32.infMag (sh * 2 ^ 23 + F32.nearestEven num (den * 2 ^ sh))

/-- The number nearest to ±num/den units. -/
def F32.round (neg : Bool) (num den : Nat) : Number := F32.pack neg (F32.roundMag num den)

/-- FREE VALUE. The NaN an operation produces on its operands: any NaN word (R10, 93 I3; log entries 3 and 10). -/
def F32.nanOf (op : NumOp) (a b : Number) : Number :=
  F32.pack (Config.nanDraw op a b).1 (F32.infMag + 1 + (Config.nanDraw op a b).2.val)

/-- `neg` flips the sign bit only (R10). -/
def F32.neg (x : Number) : Number := x ^^^ 0x80000000

/-- `abs` clears the sign bit only (R10). -/
def F32.abs (x : Number) : Number := x &&& 0x7FFFFFFF

/-- The sum, with the word that stands for a NaN result. An exact sum of 0 is −0 only when both operands are negative. -/
def F32.addOr (nan a b : Number) : Number :=
  if F32.isNaN a || F32.isNaN b then nan
  else if F32.isInf a then (if F32.isInf b && (F32.sign a != F32.sign b) then nan else a)
  else if F32.isInf b then b
  else if F32.signedUnits a + F32.signedUnits b = 0 then F32.pack (F32.sign a && F32.sign b) 0
  else F32.round (decide (F32.signedUnits a + F32.signedUnits b < 0)) (F32.signedUnits a + F32.signedUnits b).natAbs 1

/-- `add` (R9, R10). -/
def F32.add (a b : Number) : Number := F32.addOr (F32.nanOf .add a b) a b

/-- `sub`: the sum with the negated operand (R9, R10). -/
def F32.sub (a b : Number) : Number := F32.addOr (F32.nanOf .sub a b) a (F32.neg b)

/-- `mul`: the sign is the exclusive or of the signs; 0 · infinity is a NaN (R9, R10). -/
def F32.mul (a b : Number) : Number :=
  if F32.isNaN a || F32.isNaN b then F32.nanOf .mul a b
  else if F32.isInf a || F32.isInf b then
    (if F32.isZero a || F32.isZero b then F32.nanOf .mul a b else F32.pack (F32.sign a != F32.sign b) F32.infMag)
  else F32.round (F32.sign a != F32.sign b) (F32.units a * F32.units b) (2 ^ 149)

/-- `div`: x/0 is ±infinity, 0/0 and infinity/infinity are NaN (R9, R10). -/
def F32.div (a b : Number) : Number :=
  if F32.isNaN a || F32.isNaN b then F32.nanOf .div a b
  else if F32.isInf a then
    (if F32.isInf b then F32.nanOf .div a b else F32.pack (F32.sign a != F32.sign b) F32.infMag)
  else if F32.isInf b then F32.pack (F32.sign a != F32.sign b) 0
  else if F32.isZero b then
    (if F32.isZero a then F32.nanOf .div a b else F32.pack (F32.sign a != F32.sign b) F32.infMag)
  else F32.round (F32.sign a != F32.sign b) (F32.units a * 2 ^ 149) (F32.units b)

/-- The order of the numbers that are no NaN, as an integer: −0 and +0 have the same key. -/
def F32.key (x : Number) : Int := if F32.sign x then -(F32.mag x : Int) else (F32.mag x : Int)

/-- `lt`, the quiet comparison: false when an operand is NaN (R10). -/
def F32.lt (a b : Number) : Bool := !F32.isNaN a && !F32.isNaN b && decide (F32.key a < F32.key b)

/-- `eq`, the quiet comparison: −0 equals +0, NaN equals nothing (R10). -/
def F32.eq (a b : Number) : Bool := !F32.isNaN a && !F32.isNaN b && decide (F32.key a = F32.key b)

/-- `fromInt16`, which is exact (R10). -/
def F32.fromInt16 (v : BitVec 16) : Number := F32.round (decide (v.toInt < 0)) (v.toInt.natAbs * 2 ^ 149) 1

end Sys2Proof.Machine
end

