-- ==== Sys2Proof/Machine/Map.lean ====
section
/-! DEFINITION. The register map (spec/10_state.md R21): offsets of the locations, the location at an offset, and which are
read-only. Every offset that names no location is unmapped. -/

namespace Sys2Proof.Machine

/-- Offset of AC[0] (R32). -/
def acBase : Nat := 0x100
/-- Offset of LAGW[0] (R33). -/
def lagwBase : Nat := 0x180
/-- Offset of LPC[0] (R34). -/
def lpcBase : Nat := 0x200
/-- Offset of RC[0] (R35). -/
def rcBase : Nat := 0x280
/-- Offset of X[0] (R36). -/
def xBase : Nat := 0x1000
/-- Offset of WIN[0] (R37). -/
def winBase : Nat := 0x2000
/-- Offset of XW[0] (R38). -/
def xwBase : Nat := 0x3000

/-- The byte offset of a location (R21). -/
def locOffset : Loc → Nat
  | .id => 0x000
  | .ctrl => 0x004
  | .cfgN => 0x008
  | .cfgP => 0x00C
  | .cmd => 0x010
  | .status => 0x014
  | .errinfo => 0x018
  | .nfAdd => 0x01C
  | .nfMul => 0x020
  | .err => 0x024
  | .ac k => acBase + 4 * k
  | .lagw k => lagwBase + 4 * k
  | .lpc j => lpcBase + 4 * j
  | .rc j => rcBase + 4 * j
  | .x i => xBase + 4 * i
  | .win i => winBase + 4 * i
  | .xw i => xwBase + 4 * i

/-- Whether a location exists on this hardware: an array has as many entries as R6 gives it (R21). -/
def locExists : Loc → Bool
  | .ac k => decide (k ≤ Config.pMax)
  | .lagw k => decide (k ≤ Config.pMax)
  | .lpc j => decide (j < Config.pMax)
  | .rc j => decide (j < Config.pMax)
  | .x i => decide (i < Config.nMax)
  | .win i => decide (i < Config.nMax)
  | .xw i => decide (i < Config.nMax)
  | .id => true
  | .ctrl => true
  | .cfgN => true
  | .cfgP => true
  | .cmd => true
  | .status => true
  | .errinfo => true
  | .nfAdd => true
  | .nfMul => true
  | .err => true

/-- The byte offset lies in the array of `count` words at `base`. -/
def inArray (base count a : Nat) : Bool := decide (base ≤ a) && decide (a < base + 4 * count)

/-- The register at one of the first offsets (R21). -/
def registerAt (a : Nat) : Option Loc :=
  if a = 0x000 then some .id
  else if a = 0x004 then some .ctrl
  else if a = 0x008 then some .cfgN
  else if a = 0x00C then some .cfgP
  else if a = 0x010 then some .cmd
  else if a = 0x014 then some .status
  else if a = 0x018 then some .errinfo
  else if a = 0x01C then some .nfAdd
  else if a = 0x020 then some .nfMul
  else if a = 0x024 then some .err
  else none

/-- The array entry at an aligned offset (R21). -/
def arrayEntryAt (a : Nat) : Option Loc :=
  if inArray acBase (Config.pMax + 1) a then some (.ac ((a - acBase) / 4))
  else if inArray lagwBase (Config.pMax + 1) a then some (.lagw ((a - lagwBase) / 4))
  else if inArray lpcBase Config.pMax a then some (.lpc ((a - lpcBase) / 4))
  else if inArray rcBase Config.pMax a then some (.rc ((a - rcBase) / 4))
  else if inArray xBase Config.nMax a then some (.x ((a - xBase) / 4))
  else if inArray winBase Config.nMax a then some (.win ((a - winBase) / 4))
  else if inArray xwBase Config.nMax a then some (.xw ((a - xwBase) / 4))
  else none

/-- The location at a byte offset; `none` where the offset is unmapped or names no whole word (R21). -/
def locate (a : Nat) : Option Loc :=
  if a % 4 ≠ 0 then none
  else match registerAt a with
    | some l => some l
    | none => arrayEntryAt a

/-- The read-only locations: a write to them is a READONLY error (R21; spec/60_exceptions.md R143). -/
def readOnly : Loc → Bool
  | .id => true
  | .err => true
  | .lpc _ => true
  | .rc _ => true
  | .xw _ => true
  | .ctrl => false
  | .cfgN => false
  | .cfgP => false
  | .cmd => false
  | .status => false
  | .errinfo => false
  | .nfAdd => false
  | .nfMul => false
  | .ac _ => false
  | .lagw _ => false
  | .x _ => false
  | .win _ => false

/-- The byte offset belongs to one of the seven arrays. -/
def arrayCell (a : Nat) : Bool :=
  inArray acBase (Config.pMax + 1) a || inArray lagwBase (Config.pMax + 1) a || inArray lpcBase Config.pMax a
    || inArray rcBase Config.pMax a || inArray xBase Config.nMax a || inArray winBase Config.nMax a
    || inArray xwBase Config.nMax a

/-- Where the platform places a register offset (spec/20_memory.md R58: every offset is relative to BASE). -/
def platformAddress (offset : Nat) : Nat := Config.base + offset

end Sys2Proof.Machine
end

