-- ==== Sys2Proof/Machine/Tables.lean ====
section
/-! DEFINITION. The reset contents of the two tables: WIN (spec/10_state.md R46) and LAGW (R47). The words are the spec's,
which are normative there ("the table wins over the formula"). -/

namespace Sys2Proof.Machine

/-- WIN[0] to WIN[39] (R46). -/
def winPart0 : List Word := [
  0x3DA3D70A, 0x3DA413C2, 0x3DA4C9E2, 0x3DA5F953, 0x3DA7A1EE, 0x3DA9C37B, 0x3DAC5DB5, 0x3DAF7046,
  0x3DB2FAC8, 0x3DB6FCC6, 0x3DBB75BD, 0x3DC06518, 0x3DC5CA35, 0x3DCBA461, 0x3DD1F2DD, 0x3DD8B4D6,
  0x3DDFE96F, 0x3DE78FBA, 0x3DEFA6BA, 0x3DF82D64, 0x3E009150, 0x3E0542A2, 0x3E0A2A0E, 0x3E0F46F2,
  0x3E1498A6, 0x3E1A1E79, 0x3E1FD7B6, 0x3E25C39F, 0x3E2BE171, 0x3E323063, 0x3E38AFA4, 0x3E3F5E5E,
  0x3E463BB4, 0x3E4D46C4, 0x3E547EA5, 0x3E5BE269, 0x3E63711D, 0x3E6B29C7, 0x3E730B67, 0x3E7B14FB]

/-- WIN[40] to WIN[79] (R46). -/
def winPart1 : List Word := [
  0x3E81A2BC, 0x3E85CDE8, 0x3E8A0B79, 0x3E8E5AE2, 0x3E92BB95, 0x3E972D02, 0x3E9BAE95, 0x3EA03FBB,
  0x3EA4DFDC, 0x3EA98E60, 0x3EAE4AAD, 0x3EB31426, 0x3EB7EA2D, 0x3EBCCC22, 0x3EC1B965, 0x3EC6B153,
  0x3ECBB348, 0x3ED0BE9F, 0x3ED5D2B0, 0x3EDAEED6, 0x3EE01266, 0x3EE53CB8, 0x3EEA6D21, 0x3EEFA2F5,
  0x3EF4DD8A, 0x3EFA1C31, 0x3EFF5E3F, 0x3F025183, 0x3F04F4EB, 0x3F079902, 0x3F0A3D71, 0x3F0CE1DF,
  0x3F0F85F6, 0x3F12295E, 0x3F14CBC2, 0x3F176CC9, 0x3F1A0C1C, 0x3F1CA967, 0x3F1F4451, 0x3F21DC85]

/-- WIN[80] to WIN[119] (R46). -/
def winPart2 : List Word := [
  0x3F2471AE, 0x3F270376, 0x3F299189, 0x3F2C1B92, 0x3F2EA13D, 0x3F312238, 0x3F339E2F, 0x3F3614D0,
  0x3F3885CB, 0x3F3AF0CE, 0x3F3D558B, 0x3F3FB3B1, 0x3F420AF3, 0x3F445B04, 0x3F46A397, 0x3F48E460,
  0x3F4B1D17, 0x3F4D4D70, 0x3F4F7525, 0x3F5193ED, 0x3F53A983, 0x3F55B5A3, 0x3F57B807, 0x3F59B070,
  0x3F5B9E9A, 0x3F5D8247, 0x3F5F5B38, 0x3F612930, 0x3F62EBF4, 0x3F64A34A, 0x3F664EF8, 0x3F67EEC8,
  0x3F698285, 0x3F6B09FA, 0x3F6C84F4, 0x3F6DF343, 0x3F6F54B8, 0x3F70A925, 0x3F71F05E, 0x3F732A39]

/-- WIN[120] to WIN[159] (R46). -/
def winPart3 : List Word := [
  0x3F74568D, 0x3F757535, 0x3F76860A, 0x3F7788EA, 0x3F787DB3, 0x3F796447, 0x3F7A3C86, 0x3F7B0655,
  0x3F7BC19B, 0x3F7C6E3E, 0x3F7D0C2A, 0x3F7D9B48, 0x3F7E1B88, 0x3F7E8CD9, 0x3F7EEF2B, 0x3F7F4272,
  0x3F7F86A4, 0x3F7FBBB7, 0x3F7FE1A5, 0x3F7FF869, 0x3F800000, 0x3F7FF120, 0x3F7FC483, 0x3F7F7A35,
  0x3F7F1249, 0x3F7E8CD9, 0x3F7DEA06, 0x3F7D29F9, 0x3F7C4CE4, 0x3F7B52FE, 0x3F7A3C86, 0x3F7909C2,
  0x3F77BB01, 0x3F765096, 0x3F74CADD, 0x3F732A39, 0x3F716F12, 0x3F6F99DA, 0x3F6DAB06, 0x3F6BA313]

/-- WIN[160] to WIN[199] (R46). -/
def winPart4 : List Word := [
  0x3F698285, 0x3F6749E5, 0x3F64F9C4, 0x3F6292B5, 0x3F601556, 0x3F5D8247, 0x3F5ADA2E, 0x3F581DB8,
  0x3F554D95, 0x3F526A7B, 0x3F4F7525, 0x3F4C6E52, 0x3F4956C6, 0x3F462F4A, 0x3F42F8A8, 0x3F3FB3B1,
  0x3F3C6139, 0x3F390215, 0x3F359721, 0x3F322139, 0x3F2EA13D, 0x3F2B1810, 0x3F278696, 0x3F23EDB5,
  0x3F204E58, 0x3F1CA967, 0x3F18FFCE, 0x3F15527B, 0x3F11A25C, 0x3F0DF05E, 0x3F0A3D71, 0x3F068A83,
  0x3F02D886, 0x3EFE50CC, 0x3EF6F626, 0x3EEFA2F5, 0x3EE85913, 0x3EE11A58, 0x3ED9E897, 0x3ED2C5A3]

/-- WIN[200] to WIN[239] (R46). -/
def winPart5 : List Word := [
  0x3ECBB348, 0x3EC4B350, 0x3EBDC781, 0x3EB6F198, 0x3EB03351, 0x3EA98E60, 0x3EA30473, 0x3E9C972F,
  0x3E964836, 0x3E90191F, 0x3E8A0B79, 0x3E8420CD, 0x3E7CB533, 0x3E7174A6, 0x3E6682CC, 0x3E5BE269,
  0x3E51962D, 0x3E47A0B0, 0x3E3E0477, 0x3E34C3F0, 0x3E2BE171, 0x3E235F39, 0x3E1B3F6E, 0x3E13841E,
  0x3E0C2F3B, 0x3E0542A2, 0x3DFD8023, 0x3DF1525C, 0x3DE5FF05, 0x3DDB88F9, 0x3DD1F2DD, 0x3DC93F1C,
  0x3DC16FEB, 0x3DBA8741, 0x3DB486DE, 0x3DAF7046, 0x3DAB44C2, 0x3DA8055F, 0x3DA5B2F0, 0x3DA44E0B]

/-- The 240 non-zero taps of the default analysis window (R46). -/
def winTable : List Word := winPart0 ++ winPart1 ++ winPart2 ++ winPart3 ++ winPart4 ++ winPart5

/-- The default lag window LAGW[0..16] (R47); the entries the spec lists above P_MAX do not exist on this hardware. -/
def lagwTable : List Word := [
  0x3F800000, 0x3F7F7EC4, 0x3F7DFC96, 0x3F7B7E04, 0x3F780A8A, 0x3F73AC6E, 0x3F6E708E, 0x3F68661F,
  0x3F619E65, 0x3F5A2C60, 0x3F522474, 0x3F499C0D, 0x3F40A940, 0x3F37626C, 0x3F2DDDE0, 0x3F243185,
  0x3F1A728A]

end Sys2Proof.Machine
end

