-- ==== Sys2Proof/Machine/Ops.lean ====
section
/-! DEFINITION. The named operations over memory and registers: byte lanes, the one memory of the arrays and its canonical form,
the reset of the block, and the two operations of the error mechanism, raising an error (spec/60_exceptions.md R145) and clearing
its record (spec/40_host_access.md R93). -/

namespace Sys2Proof.Machine

/-- Lane `b` of a word carries its bits 8b+7 to 8b (spec/20_memory.md R54). -/
def laneByte (w : Word) (b : Nat) : Byte := w.extractLsb' (8 * b) 8

/-- The four lanes of a word, at offsets 4m to 4m+3 (R54). -/
def wordBytes (w : Word) : List Byte := [laneByte w 0, laneByte w 1, laneByte w 2, laneByte w 3]

/-- The word whose lanes are given (R54). -/
def wordOfLanes (b0 b1 b2 b3 : Byte) : Word := b3 ++ b2 ++ b1 ++ b0

/-- The reset contents of the word at an aligned offset: the LAGW and WIN tables, zero elsewhere (spec/10_state.md R45). -/
def resetWord (a : Nat) : Word :=
  if inArray lagwBase (Config.pMax + 1) a then lagwTable.getD ((a - lagwBase) / 4) 0
  else if inArray winBase Config.nMax a then winTable.getD ((a - winBase) / 4) 0
  else 0

/-- What an unlisted address reads as: the reset contents (R45 to R47; log entry 4). -/
def Memory.unlisted (a : Nat) : Byte := laneByte (resetWord (a / 4 * 4)) (a % 4)

/-- The byte at an address. -/
def Memory.read : Memory → Nat → Byte
  | [], a => Memory.unlisted a
  | c :: rest, a => if c.1 = a then c.2 else Memory.read rest a

/-- The word at an aligned offset, its four lanes together (R54). -/
def Memory.readWord (m : Memory) (a : Nat) : Word :=
  wordOfLanes (m.read a) (m.read (a + 1)) (m.read (a + 2)) (m.read (a + 3))

/-- The cells of a block of bytes, less those that an unlisted address reads as. -/
def cellsOf : Nat → List Byte → Memory
  | _, [] => []
  | a, b :: rest => if b = Memory.unlisted a then cellsOf (a + 1) rest else (a, b) :: cellsOf (a + 1) rest

/-- Memory with a block of bytes written at `base`. -/
def Memory.store (m : Memory) (base : Nat) (bytes : List Byte) : Memory :=
  m.filter (fun c => decide (c.1 < base)) ++ (cellsOf base bytes ++ m.filter (fun c => decide (base + bytes.length ≤ c.1)))

/-- Memory with consecutive words written from `base` on. -/
def Memory.storeWords (m : Memory) (base : Nat) (ws : List Word) : Memory := m.store base (ws.flatMap wordBytes)

/-- The canonical form: addresses strictly rising, no entry equal to what an unlisted address reads as. -/
abbrev Memory.wf (m : Memory) : Prop :=
  m.Pairwise (fun c d => c.1 < d.1) ∧ ∀ c ∈ m, c.2 ≠ Memory.unlisted c.1

/-- Every listed address belongs to an array. -/
abbrev Memory.inArrays (m : Memory) : Prop := ∀ c ∈ m, arrayCell c.1 = true

/-- The word at an offset of the block's space. -/
def wordAt (s : State) (a : Nat) : Word := s.mem.readWord a

/-- The block with consecutive words written from `base` on. -/
def storeArray (base : Nat) (ws : List Word) (s : State) : State := { s with mem := s.mem.storeWords base ws }

/-- `loc <- v` for a storage location at an offset (spec/40_host_access.md R89). -/
def storeWord (a : Nat) (v : Word) (s : State) : State := storeArray a [v] s

/-- BUSY = (pending ≠ []) (spec/10_state.md R41). -/
def busy (s : State) : Bool := !s.pending.isEmpty

/-- The bus answers the access (spec/30_encoding.md R70). -/
def respond (r : Response) (s : State) : State := { s with response := some r }

/-- `raise Error(code)`: the first error is recorded, a later one sets OVERRUN; the response is {ERR = 1, RDATA = 0}
(spec/60_exceptions.md R144, R145). -/
def raiseError (code : ErrCode) (addr : Nat) (we : Bool) (s : State) : State :=
  respond { err := true, rdata := 0 }
    (if s.ecode = .none then { s with ecode := code, eaddr := BitVec.ofNat 14 addr, ewr := we } else { s with eovr := true })

/-- What corresponds to a return: the record of the error is cleared (spec/60_exceptions.md R148, spec/40_host_access.md R93). -/
def clearErrInfo (s : State) : State := { s with ecode := .none, eaddr := 0, ewr := false, eovr := false }

/-- Command acceptance (spec/40_host_access.md R95). -/
def acceptCommand (w : Word) (stages : List Stage) (s : State) : State :=
  { s with cmd := w, done := false, zero := false, degen := false, unstable := false, nonfinite := false, pending := stages }

/-- `state <- resetState`: every field of spec/10_state.md R45; what surrounds the block stays (log entry 9). -/
def resetBlock (s : State) : State :=
  { State.reset with program := s.program, schedule := s.schedule, pinHeld := s.pinHeld, response := s.response }

/-- Asserting the reset pin (spec/70_reset_and_hazards.md R163). -/
def pinRise (s : State) : State := { resetBlock s with pinHeld := true }

/-- Releasing the reset pin (R163). -/
def pinFall (s : State) : State := { s with pinHeld := false }

/-- After a stage other than SOFTRESET: `pending <- rest`, and DONE when it was the last (spec/43_control_ops.md R136, R137). -/
def completeStage (rest : List Stage) (s : State) : State := { s with pending := rest, done := s.done || rest.isEmpty }

end Sys2Proof.Machine
end

