-- ==== Sys2Proof/Machine/Flags.lean ====
section
/-! DEFINITION. The status flags and the words software reads them in: STATUS (spec/10_state.md R27), ERRINFO (R28), CTRL (R23),
the irq level (R43), and the ways flags change: W1C writes (spec/40_host_access.md R92) and the stages' setting of them. -/

namespace Sys2Proof.Machine

/-- The STAGE code of a stage (spec/10_state.md R40). -/
def stageCode : Stage → BitVec 4
  | .window => 1
  | .autocorr => 2
  | .condition => 3
  | .recurse => 4
  | .nop => 5
  | .softreset => 6

/-- STATUS.STAGE: the code of the head of pending, 0 when it is empty (R40). -/
def stageField (s : State) : BitVec 4 :=
  match s.pending with
  | [] => 0
  | st :: _ => stageCode st

/-- The code of an error (spec/60_exceptions.md R143). -/
def errBits : ErrCode → BitVec 4
  | .none => 0
  | .size => 1
  | .misaligned => 2
  | .unmapped => 3
  | .busy => 4
  | .readonly => 5
  | .badParam => 6
  | .illegalCmd => 7

/-- The STATUS word {STAGE, 00, NONFINITE, UNSTABLE, DEGEN, ZERO, DONE, BUSY} (spec/40_host_access.md R87). -/
def statusWord (s : State) : Word :=
  (0 : BitVec 20) ++ stageField s ++ (0 : BitVec 2) ++ BitVec.ofBool s.nonfinite ++ BitVec.ofBool s.unstable
    ++ BitVec.ofBool s.degen ++ BitVec.ofBool s.zero ++ BitVec.ofBool s.done ++ BitVec.ofBool (busy s)

/-- The ERRINFO word {EOVR, EWR, EADDR, 0, ECODE} (R87). -/
def errInfoWord (s : State) : Word :=
  BitVec.ofBool s.eovr ++ BitVec.ofBool s.ewr ++ s.eaddr ++ (0 : BitVec 12) ++ errBits s.ecode

/-- The CTRL word {IE, INFMT, WINEN} (R87). -/
def ctrlWord (s : State) : Word :=
  (0 : BitVec 29) ++ BitVec.ofBool s.ie ++ BitVec.ofBool s.infmt ++ BitVec.ofBool s.winen

/-- irq = IE ∧ DONE, a level (spec/10_state.md R43). -/
def irq (s : State) : Bool := s.ie && s.done

/-- The level of a platform line: the block drives the one it is connected to (spec/60_exceptions.md R150). -/
def irqOn (line : Nat) (s : State) : Bool := decide (line = Config.irqLine) && irq s

/-- A write to STATUS clears the flags whose bits it names and ignores every other bit (spec/40_host_access.md R92). -/
def clearFlags (v : Word) (s : State) : State :=
  { s with
    done := s.done && !v.getLsbD 1
    zero := s.zero && !v.getLsbD 2
    degen := s.degen && !v.getLsbD 3
    unstable := s.unstable && !v.getLsbD 4
    nonfinite := s.nonfinite && !v.getLsbD 5 }

/-- Some number of a list is ±infinity or NaN. -/
def someNonfinite (xs : List Number) : Bool := xs.any (fun x => !F32.isFinite x)

/-- `if … then NONFINITE <- 1`; no stage clears it (spec/10_state.md R42). -/
def noteNonfinite (b : Bool) (s : State) : State := { s with nonfinite := s.nonfinite || b }

/-- The flags RECURSE sets, each only ever set (spec/42_levinson.md R125). -/
def noteRecursion (zero degen unstable nonfinite : Bool) (s : State) : State :=
  { s with
    zero := s.zero || zero
    degen := s.degen || degen
    unstable := s.unstable || unstable
    nonfinite := s.nonfinite || nonfinite }

/-- The reflection coefficient fails the test abs(q) < 1: |q| ≥ 1, or q is NaN (spec/42_levinson.md R126). -/
def isUnstable (q : Number) : Bool := !F32.lt (F32.abs q) F32.one

/-- The prediction error is not positive and finite: the early stop (spec/42_levinson.md R121). -/
def isDegenerate (e : Number) : Bool := !F32.lt F32.zero e || !F32.isFinite e

end Sys2Proof.Machine
end

