-- ==== Sys2Proof/Machine/HostAccess.lean ====
section
/-! DEFINITION. The host access operations REG_READ and REG_WRITE (spec/40_host_access.md R85 to R96) with the access check in its
order of priority (spec/60_exceptions.md R146). -/

namespace Sys2Proof.Machine

/-- The identity word "LPC", version 1 (spec/10_state.md R22). -/
def idWord : Word := 0x4C504301

/-- The accesses that succeed while a command is in progress: reads of STATUS and ERRINFO (spec/10_state.md R41). -/
def allowedWhileBusy (we : Bool) (l : Loc) : Bool := !we && (l = .status || l = .errinfo)

/-- The value is out of range for the checked registers CFG_N and CFG_P: the whole word, unsigned (R90, R91). -/
def outOfRange (l : Loc) (v : Word) : Bool :=
  (l = .cfgN && !(decide (1 ≤ v.toNat) && decide (v.toNat ≤ Config.nMax)))
    || (l = .cfgP && !(decide (1 ≤ v.toNat) && decide (v.toNat ≤ Config.pMax)))

/-- The written word is no command: the verdict `Illegal` (spec/30_encoding.md R74). -/
def illegalCommand (l : Loc) (v : Word) : Bool := l = .cmd && decide (decodeCmd v = .reject .illegalCmd)

/-- The access check: the first failing check gives the access its one error, else the location it reaches
(spec/60_exceptions.md R146). -/
def accessCheck (we : Bool) (size : BitVec 2) (addr : Nat) (data : Word) (s : State) : Except ErrCode Loc :=
  if size ≠ 2 then .error .size
  else if addr % 4 ≠ 0 then .error .misaligned
  else match locate addr with
    | none => .error .unmapped
    | some l =>
      if busy s && !allowedWhileBusy we l then .error .busy
      else if we && readOnly l then .error .readonly
      else if we && outOfRange l data then .error .badParam
      else if we && illegalCommand l data then .error .illegalCmd
      else .ok l

/-- The value a read returns, per location (R87). -/
def readValue (l : Loc) (s : State) : Word :=
  match l with
  | .id => idWord
  | .ctrl => ctrlWord s
  | .cfgN => BitVec.ofNat 32 s.n
  | .cfgP => BitVec.ofNat 32 s.p
  | .cmd => s.cmd
  | .status => statusWord s
  | .errinfo => errInfoWord s
  | .nfAdd => s.nfAdd
  | .nfMul => s.nfMul
  | .err => s.err
  | .ac k => wordAt s (locOffset (.ac k))
  | .lagw k => wordAt s (locOffset (.lagw k))
  | .lpc j => wordAt s (locOffset (.lpc j))
  | .rc j => wordAt s (locOffset (.rc j))
  | .x i => wordAt s (locOffset (.x i))
  | .win i => wordAt s (locOffset (.win i))
  | .xw i => wordAt s (locOffset (.xw i))

/-- Write to CTRL (R88). -/
def writeCtrl (v : Word) (s : State) : State :=
  { s with winen := v.getLsbD 0, infmt := v.getLsbD 1, ie := v.getLsbD 2 }

/-- Write to CFG_N, its value already checked (R90). -/
def writeCfgN (v : Word) (s : State) : State := { s with n := v.toNat }

/-- Write to CFG_P, its value already checked (R91). -/
def writeCfgP (v : Word) (s : State) : State := { s with p := v.toNat }

/-- Write to NF_ADD (R89). -/
def writeNfAdd (v : Word) (s : State) : State := { s with nfAdd := v }

/-- Write to NF_MUL (R89). -/
def writeNfMul (v : Word) (s : State) : State := { s with nfMul := v }

/-- Write to CMD, its word already checked: acceptance of the command it names (R94, R95). -/
def writeCmd (v : Word) (s : State) : State := acceptCommand v (stagesOfWord v) s

/-- The effect of an accepted write on its target (R86). The read-only locations are no targets: the check has rejected them. -/
def writeLoc (l : Loc) (v : Word) (s : State) : State :=
  match l with
  | .id => s
  | .ctrl => writeCtrl v s
  | .cfgN => writeCfgN v s
  | .cfgP => writeCfgP v s
  | .cmd => writeCmd v s
  | .status => clearFlags v s
  | .errinfo => clearErrInfo s
  | .nfAdd => writeNfAdd v s
  | .nfMul => writeNfMul v s
  | .err => s
  | .ac k => storeWord (locOffset (.ac k)) v s
  | .lagw k => storeWord (locOffset (.lagw k)) v s
  | .lpc _ => s
  | .rc _ => s
  | .x i => storeWord (locOffset (.x i)) v s
  | .win i => storeWord (locOffset (.win i)) v s
  | .xw _ => s

/-- The whole read access: an error, or the answer (R85). -/
def hostRead (size : BitVec 2) (addr : Nat) (s : State) : State :=
  match accessCheck false size addr 0 s with
  | .error c => raiseError c addr false s
  | .ok l => respond { err := false, rdata := readValue l s } s

/-- The whole write access: an error, or the write and its answer (R86). -/
def hostWrite (size : BitVec 2) (addr : Nat) (data : Word) (s : State) : State :=
  match accessCheck true size addr data s with
  | .error c => raiseError c addr true s
  | .ok l => respond { err := false, rdata := 0 } (writeLoc l data s)

/-- REG_READ (R85). -/
def execRegRead (size : BitVec 2) (addr : Nat) (s : State) : Host.Outcome State Fault Refusal :=
  .next (hostRead size addr s)

/-- REG_WRITE (R86). -/
def execRegWrite (size : BitVec 2) (addr : Nat) (data : Word) (s : State) : Host.Outcome State Fault Refusal :=
  .next (hostWrite size addr data s)

end Sys2Proof.Machine
end

