-- ==== Sys2Proof/Machine/Operands.lean ====
section
/-! DEFINITION. The operands, all implicit (spec/30_encoding.md R77): the entries of the arrays as numbers, the sample conversion
(spec/41_signal_ops.md R103), and the result lists filled up with zeros. -/

namespace Sys2Proof.Machine

/-- AC[k] (spec/10_state.md R32). -/
def acAt (s : State) (k : Nat) : Number := Number.fromBits (wordAt s (locOffset (.ac k)))
/-- LAGW[k] (R33). -/
def lagwAt (s : State) (k : Nat) : Number := Number.fromBits (wordAt s (locOffset (.lagw k)))
/-- LPC[j], the coefficient of z^-(j+1) (R34). -/
def lpcAt (s : State) (j : Nat) : Number := Number.fromBits (wordAt s (locOffset (.lpc j)))
/-- RC[j], the reflection coefficient of stage j+1 (R35). -/
def rcAt (s : State) (j : Nat) : Number := Number.fromBits (wordAt s (locOffset (.rc j)))
/-- X[i], a raw word (R36). -/
def xAt (s : State) (i : Nat) : Word := wordAt s (locOffset (.x i))
/-- WIN[i] (R37). -/
def winAt (s : State) (i : Nat) : Number := Number.fromBits (wordAt s (locOffset (.win i)))
/-- XW[i] (R38). -/
def xwAt (s : State) (i : Nat) : Number := Number.fromBits (wordAt s (locOffset (.xw i)))

/-- Sample conversion: with INFMT = 0 the 16-bit integer in bits 15:0, else the binary32 pattern (spec/41_signal_ops.md R103). -/
def sampleOf (infmt : Bool) (w : Word) : Number :=
  if infmt then Number.fromBits w else F32.fromInt16 (w.extractLsb' 0 16)

/-- XW[0..N−1], what AUTOCORR sums over (R77: `signal`, `n`). -/
def signal (s : State) : List Number := (List.range s.n).map (xwAt s)

/-- AC[0..P], what RECURSE reads (R77: `ac`). -/
def conditionedLags (s : State) : List Number := (List.range (s.p + 1)).map (acAt s)

/-- A result list made `len` entries long, with +0 above the computed ones (spec/92_eei_decisions.md D21). -/
def padTo (len : Nat) (xs : List Number) : List Word :=
  ((xs ++ List.replicate (len - xs.length) F32.zero).take len).map Number.toBits

end Sys2Proof.Machine
end

