-- ==== Sys2Proof/Machine/LevinsonStages.lean ====
section
/-! DEFINITION. The stages CONDITION and RECURSE (spec/42_levinson.md R113 to R127). -/

namespace Sys2Proof.Machine

/-- Lag 0 with the noise floor: add rounded, then multiply rounded (R113). -/
def flooredLag0 (s : State) : Number := F32.mul (F32.add (acAt s 0) (Number.fromBits s.nfAdd)) (Number.fromBits s.nfMul)

/-- Lag k after CONDITION: the floor on lag 0 first, then the lag window (R113, R114). -/
def conditionedLag (s : State) (k : Nat) : Number := F32.mul (if k = 0 then flooredLag0 s else acAt s k) (lagwAt s k)

/-- The lags 0..P after CONDITION (R115). -/
def conditionedList (s : State) : List Number := (List.range (s.p + 1)).map (conditionedLag s)

/-- `stage CONDITION`: AC[0..P], the lags above P untouched, and NONFINITE (R115). -/
def stageCondition (s : State) : State :=
  noteNonfinite (someNonfinite (conditionedList s))
    (storeArray acBase (((conditionedList s).take (Config.pMax + 1)).map Number.toBits) s)

/-- What the recursion holds while it runs: the arrays `a` and `k`, the error E and the flags it has set (R116). -/
structure Recursion where
  a : List Number
  k : List Number
  e : Number
  zero : Bool
  degen : Bool
  unstable : Bool
  nonfinite : Bool
deriving DecidableEq, Repr

/-- Every LPC and RC entry +0, before anything else (R122). -/
def clearedOutputs : List Number := List.replicate Config.pMax F32.zero

/-- The recursion before its first iteration, E = r[0] (R116). -/
def recursionStart (e : Number) : Recursion :=
  { a := clearedOutputs, k := clearedOutputs, e := e, zero := false, degen := false, unstable := false, nonfinite := false }

/-- The reflection coefficient of iteration i: −r[i+1] less each a[j]·r[i−j], ascending j, then one division by E (R118). -/
def reflection (r a : List Number) (e : Number) (i : Nat) : Number :=
  F32.div
    ((List.range i).foldl (fun q j => F32.sub q (F32.mul (a.getD j F32.zero) (r.getD (i - j) F32.zero)))
      (F32.neg (r.getD (i + 1) F32.zero)))
    e

/-- The pair (j, i−1−j) of the in-place update: both new values from the old pair (R119). -/
def updatePair (q : Number) (i : Nat) (a : List Number) (j : Nat) : List Number :=
  (a.set j (F32.add (a.getD j F32.zero) (F32.mul q (a.getD (i - 1 - j) F32.zero)))).set (i - 1 - j)
    (F32.add (a.getD (i - 1 - j) F32.zero) (F32.mul q (a.getD j F32.zero)))

/-- The middle entry, updated once when i is odd (R119). -/
def updateMiddle (q : Number) (i : Nat) (a : List Number) : List Number :=
  if i % 2 = 1 then
    a.set (i / 2) (F32.add (a.getD (i / 2) F32.zero) (F32.mul (a.getD (i / 2) F32.zero) q))
  else a

/-- The in-place coefficient update of iteration i (R119). -/
def updateCoefficients (q : Number) (i : Nat) (a : List Number) : List Number :=
  updateMiddle q i ((List.range (i / 2)).foldl (updatePair q i) (a.set i q))

/-- `E <- E * (one − (q * q))` (R120). -/
def updateError (e q : Number) : Number := F32.mul e (F32.sub F32.one (F32.mul q q))

/-- One iteration with its coefficient q computed (R116). -/
def iterateWith (q : Number) (i : Nat) (c : Recursion) : Recursion :=
  { c with
    a := updateCoefficients q i c.a
    k := c.k.set i q
    e := updateError c.e q
    unstable := c.unstable || isUnstable q
    nonfinite := c.nonfinite || !F32.isFinite q || someNonfinite ((updateCoefficients q i c.a).take (i + 1))
      || !F32.isFinite (updateError c.e q) }

/-- The loop: `todo` iterations from iteration i on, ended early by an error that is not positive and finite (R116, R121). -/
def recursionLoop (r : List Number) : Nat → Nat → Recursion → Recursion
  | 0, _, c => c
  | todo + 1, i, c =>
    if isDegenerate c.e then { c with degen := true }
    else recursionLoop r todo (i + 1) (iterateWith (reflection r c.a c.e i) i c)

/-- The recursion on lags 0..P: the pre-checks in their order, then the loop (R116, R117). -/
def recursion (p : Nat) (r : List Number) : Recursion :=
  if someNonfinite r then { recursionStart F32.zero with nonfinite := true, degen := true }
  else if F32.eq (r.getD 0 F32.zero) F32.zero then { recursionStart F32.zero with zero := true }
  else recursionLoop r p 0 (recursionStart (r.getD 0 F32.zero))

/-- The results of a recursion stored: all of LPC and RC, ERR, and its flags (R116, R125, R127). -/
def storeRecursion (c : Recursion) (s : State) : State :=
  noteRecursion c.zero c.degen c.unstable c.nonfinite
    { storeArray rcBase (c.k.map Number.toBits) (storeArray lpcBase (c.a.map Number.toBits) s) with err := Number.toBits c.e }

/-- `stage RECURSE` (R116). -/
def stageRecurse (s : State) : State := storeRecursion (recursion s.p (conditionedLags s)) s

end Sys2Proof.Machine
end

