-- ==== Sys2Proof/Machine/SignalStages.lean ====
section
/-! DEFINITION. The signal stages: NOP, WINDOW and AUTOCORR (spec/41_signal_ops.md R101 to R106). -/

namespace Sys2Proof.Machine

/-- `stage NOP: skip` (R101). -/
def stageNop (s : State) : State := s

/-- The windowed sample i: one rounded multiply when WINEN = 1, the converted sample itself otherwise (R102). DEDUCED: the sample −0.0
is multiplied like any other (spec/00_scope.md R9 to R11), against a remark of R104 (log entry 7; unsafe). -/
def windowedSample (s : State) (i : Nat) : Number :=
  if s.winen then F32.mul (sampleOf s.infmt (xAt s i)) (winAt s i) else sampleOf s.infmt (xAt s i)

/-- The windowed signal XW[0..N−1] (R102). -/
def windowedSignal (s : State) : List Number := (List.range s.n).map (windowedSample s)

/-- `stage WINDOW`: all of XW, +0 from N on, and NONFINITE (R102, R104). -/
def stageWindow (s : State) : State :=
  noteNonfinite (someNonfinite (windowedSignal s)) (storeArray xwBase (padTo Config.nMax (windowedSignal s)) s)

/-- Lag k of a signal: the products xw[i]·xw[i−k] for i from k on, ascending, each product rounded and each sum rounded, from +0
(R105). -/
def lagSum (xw : List Number) (k : Nat) : Number := (List.zipWith F32.mul (xw.drop k) xw).foldl F32.add F32.zero

/-- The lags 0..P (R105). -/
def rawLags (s : State) : List Number := (List.range (s.p + 1)).map (lagSum (signal s))

/-- `stage AUTOCORR`: all of AC, +0 above P, and NONFINITE (R105, R106). -/
def stageAutocorr (s : State) : State :=
  noteNonfinite (someNonfinite (rawLags s)) (storeArray acBase (padTo (Config.pMax + 1) (rawLags s)) s)

end Sys2Proof.Machine
end

