-- ==== Sys2Proof/Machine/Engine.lean ====
section
/-! DEFINITION. The engine: the stages by name, one engine step (spec/43_control_ops.md R136), and the issue of a command, which
gives the engine its stages (spec/40_host_access.md R94, R95; log entry 2). -/

namespace Sys2Proof.Machine

/-- `stage SOFTRESET`: the reset state, then DONE (R134). -/
def stageSoftreset (s : State) : State := { resetBlock s with done := true }

/-- `perform s`: the rule of each stage (R136). -/
def performStage : Stage → State → State
  | .nop, s => stageNop s
  | .window, s => stageWindow s
  | .autocorr, s => stageAutocorr s
  | .condition, s => stageCondition s
  | .recurse, s => stageRecurse s
  | .softreset, s => stageSoftreset s

/-- One engine step; with nothing pending the engine has none, and nothing changes (R136). -/
def engineStep (s : State) : State :=
  match s.pending with
  | [] => s
  | st :: rest => if st = .softreset then stageSoftreset s else completeStage rest (performStage st s)

/-- Issuing a command: the host's CMD write that carries its word, one atomic step (spec/30_encoding.md R69; spec/40_host_access.md
R94, R95; spec/41_signal_ops.md R100). Accepted, the command is pending and the engine's own steps perform it; a busy block turns it
away. -/
def issueCommand (i : Instr) (s : State) : Host.Outcome State Fault Refusal :=
  .next (hostWrite 2 0x010 (commandWord i) s)

end Sys2Proof.Machine
end

