-- ==== Sys2Proof/Machine/ControlOps.lean ====
section
/-! DEFINITION. The commands ANALYZE and SOFTRESET (spec/43_control_ops.md). -/

namespace Sys2Proof.Machine

/-- ANALYZE: WINDOW, AUTOCORR, CONDITION, RECURSE (R133). -/
def execAnalyze (s : State) : Host.Outcome State Fault Refusal := issueCommand .analyze s

/-- SOFTRESET: the reset state, then DONE (R134; `stageSoftreset`). -/
def execSoftreset (s : State) : Host.Outcome State Fault Refusal := issueCommand .softreset s

end Sys2Proof.Machine
end

