-- ==== Sys2Proof/Machine/LevinsonOps.lean ====
section
/-! DEFINITION. The commands CONDITION, RECURSE and LEVINSON (spec/42_levinson.md). -/

namespace Sys2Proof.Machine

/-- CONDITION: the noise floor and the lag window on AC (R115; `stageCondition`). -/
def execCondition (s : State) : Host.Outcome State Fault Refusal := issueCommand .condition s

/-- RECURSE: the Levinson–Durbin recursion on AC[0..P] (R116; `stageRecurse`). -/
def execRecurse (s : State) : Host.Outcome State Fault Refusal := issueCommand .recurse s

/-- LEVINSON: CONDITION, then RECURSE (R128). -/
def execLevinson (s : State) : Host.Outcome State Fault Refusal := issueCommand .levinson s

end Sys2Proof.Machine
end

