-- ==== Sys2Proof/Machine/SignalOps.lean ====
section
/-! DEFINITION. The commands NOP, WINDOW and AUTOCORR (spec/41_signal_ops.md). -/

namespace Sys2Proof.Machine

/-- NOP: do nothing, then complete (R101; `stageNop`). -/
def execNop (s : State) : Host.Outcome State Fault Refusal := issueCommand .nop s

/-- WINDOW: convert the input samples and apply the analysis window (R102; `stageWindow`). -/
def execWindow (s : State) : Host.Outcome State Fault Refusal := issueCommand .window s

/-- AUTOCORR: unnormalized autocorrelation of XW for lags 0..P (R105; `stageAutocorr`). -/
def execAutocorr (s : State) : Host.Outcome State Fault Refusal := issueCommand .autocorr s

end Sys2Proof.Machine
end

