-- ==== Sys2Proof/Machine/Dispatch.lean ====
section
/-! DEFINITION. One arm per constructor of Instr: each a direct call of the instruction's meaning. -/

namespace Sys2Proof.Machine

def exec (i : Instr) (s : State) : Host.Outcome State Fault Refusal :=
  match i with
  | .regRead size addr => Sys2Proof.Machine.execRegRead size addr s
  | .regWrite size addr data => Sys2Proof.Machine.execRegWrite size addr data s
  | .nop => Sys2Proof.Machine.execNop s
  | .window => Sys2Proof.Machine.execWindow s
  | .autocorr => Sys2Proof.Machine.execAutocorr s
  | .condition => Sys2Proof.Machine.execCondition s
  | .recurse => Sys2Proof.Machine.execRecurse s
  | .levinson => Sys2Proof.Machine.execLevinson s
  | .analyze => Sys2Proof.Machine.execAnalyze s
  | .softreset => Sys2Proof.Machine.execSoftreset s

end Sys2Proof.Machine
end

