-- ==== Sys2Proof/Machine/Schedule.lean ====
section
/-! DEFINITION. Who acts next and with what: the turns of the schedule (spec/00_scope.md R13, R14), the host's next statement
(spec/30_encoding.md R81, R82) and the reset pin (spec/70_reset_and_hazards.md R163). Step.lean only calls these. -/

namespace Sys2Proof.Machine

/-- What the next step does. -/
inductive Activity where
  /-- The host issues this instruction in this state. -/
  | run (i : Instr) (s : State)
  /-- The engine performs a stage in this state. -/
  | engine (s : State)
  /-- No agent acts: the pin moves, or the turn passes; the state after it. -/
  | settled (s : State)
  /-- The host moves where it has no move. -/
  | stuck (f : Fault)
deriving DecidableEq, Repr

/-- The host's turn: its next statement. While the pin is held it has no move (R163). `wait` reads STATUS and stays in the program
while BUSY (R82). A host with nothing left to issue lets the turn pass. -/
def hostTurn (s : State) : Activity :=
  match s.program with
  | [] => .settled s
  | stmt :: rest =>
    if s.pinHeld then .stuck .accessWhileReset
    else match stmt with
      | .code c => .run (instrOf c) { s with program := rest }
      | .wait => .run (.regRead 2 0x014) (if busy s then s else { s with program := rest })

/-- The engine's turn: it has a step exactly when stages are pending (spec/43_control_ops.md R136), and none while the pin is held
(R163). -/
def engineTurn (s : State) : Activity :=
  if s.pinHeld || !busy s then .settled s else .engine s

/-- A turn, taken from the schedule. -/
def takeTurn (t : Turn) (s : State) : Activity :=
  match t with
  | .host => hostTurn s
  | .engine => engineTurn s
  | .pinRise => .settled (pinRise s)
  | .pinFall => .settled (pinFall s)

/-- The turn when the schedule names none: while the pin is held nobody's; the engine's while it has work, so that it is weakly
fair (spec/00_scope.md R14); else the host's. -/
def defaultTurn (s : State) : Activity :=
  if s.pinHeld then .settled s else if busy s then engineTurn s else hostTurn s

/-- What the next step does: the next turn of the schedule, or the default one. -/
def nextActivity (s : State) : Activity :=
  match s.schedule with
  | t :: rest => takeTurn t { s with schedule := rest }
  | [] => defaultTurn s

/-- The state in which the very next step issues a code word: the pin released, the next turn the host's, the code word its next
statement (log entry 8). -/
def placeCode (c : CodeWord) (s : State) : State :=
  { s with pinHeld := false, schedule := .host :: s.schedule, program := .code c :: s.program }

end Sys2Proof.Machine
end

