-- ==== Sys2Proof/Machine/Step.lean ====
section
/-! DEFINITION. One step of the machine: one host access, one engine stage, or one edge of the reset pin, each atomic
(spec/00_scope.md R13, spec/20_memory.md R60, R61). -/

namespace Sys2Proof.Machine

def step (s : State) : Host.Outcome State Fault Refusal :=
  match nextActivity s with
  | .run i s' => exec i s'
  | .engine s' => .next (engineStep s')
  | .settled s' => .next s'
  | .stuck f => .fault f

/-- `s` with the instruction of a table row placed where the next step fetches it: at the head of the host's program, the next
turn being the host's (log entry 8). -/
def State.withFetchWord (s : State) (nbits w : Nat) : State := placeCode (tableCode nbits w) s

end Sys2Proof.Machine
end

