-- ==== Sys2Proof/Machine/Listing.lean ====
section
/-! DEFINITION. The host listing (spec/30_encoding.md R81 to R84): its statements as syntax trees, their assembly into request
words, the pseudo-instructions, and disassembly. -/

namespace Sys2Proof.Machine

/-- The written form of a location: a symbolic name, or a raw hexadecimal offset (R81). -/
inductive LocSyntax where
  | named (l : Loc)
  | raw (offset : BitVec 14)
deriving DecidableEq, Repr

/-- A listing line: `rd` or `wr` with its SIZE suffix (none is SIZE 2; `.b`, `.h`, `.r3` are 0, 1, 3) (R81). -/
inductive Line where
  | rd (size : BitVec 2) (l : LocSyntax)
  | wr (size : BitVec 2) (l : LocSyntax) (v : Word)
deriving DecidableEq, Repr

/-- The offset a written location assembles to (R81). -/
def locSyntaxOffset : LocSyntax → Nat
  | .named l => locOffset l
  | .raw a => a.toNat

/-- Assembly of a line into its request word (R83). -/
def assemble : Line → BitVec 49
  | .rd size l => packReq false size (locSyntaxOffset l) 0
  | .wr size l v => packReq true size (locSyntaxOffset l) v

/-- The written location of an offset: its name when it is mapped and aligned, else the offset (R84). -/
def locSyntaxOf (a : Nat) : LocSyntax :=
  match locate a with
  | some l => .named l
  | none => .raw (BitVec.ofNat 14 a)

/-- Disassembly of a request word (R84). -/
def disassemble (w : BitVec 49) : Line :=
  if reqWe w then .wr (reqSize w) (locSyntaxOf (reqAddr w)) (reqData w) else .rd (reqSize w) (locSyntaxOf (reqAddr w))

/-- `cmd <MNEMONIC>`: `wr CMD, <OP>` (R82). -/
def lineCmd (i : Instr) : Line := .wr 2 (.named .cmd) (commandWord i)

/-- `clrst`: clears the five flags (R82). -/
def lineClrst : Line := .wr 2 (.named .status) 0x3E

/-- `clrerr` (R82). -/
def lineClrerr : Line := .wr 2 (.named .errinfo) 0

/-- `wrs <loc>, <int16>`: the sample zero-extended (R82), at a named location or a raw offset (R81). -/
def lineWrs (l : LocSyntax) (v : BitVec 16) : Line := .wr 2 l (v.zeroExtend 32)

/-- `wrf <loc>, <decimal>`: the binary32 word nearest to ±num/den (R82; f32 is nearest-even, R81), at a named location or a raw
offset. -/
def lineWrf (l : LocSyntax) (neg : Bool) (num den : Nat) : Line := .wr 2 l (F32.round neg (num * 2 ^ 149) den)

/-- The host statement of a line. -/
def stmtOf (l : Line) : HostStmt := .code (.hostreq (assemble l))

/-- `run <MNEMONIC>`: `cmd <MNEMONIC>`, then `wait` (R82). -/
def stmtsRun (i : Instr) : List HostStmt := [stmtOf (lineCmd i), .wait]

/-- The SIZE suffix of a mnemonic (R81). -/
def sizeSuffix (size : BitVec 2) : String :=
  if size = 2 then "" else if size = 0 then ".b" else if size = 1 then ".h" else ".r3"

/-- Hexadecimal as the model's listings print it. DESIGN CHOICE: lower-case digits, no leading zeros; R84 fixes neither (log entry
19; safe). -/
def hexText (n : Nat) : String := "0x" ++ String.ofList (Nat.toDigits 16 n)

/-- An array entry as listings write it. -/
def entryText (name : String) (k : Nat) : String := name ++ "[" ++ toString k ++ "]"

/-- The name of a location (R81). -/
def locText : Loc → String
  | .id => "ID"
  | .ctrl => "CTRL"
  | .cfgN => "CFG_N"
  | .cfgP => "CFG_P"
  | .cmd => "CMD"
  | .status => "STATUS"
  | .errinfo => "ERRINFO"
  | .nfAdd => "NF_ADD"
  | .nfMul => "NF_MUL"
  | .err => "ERR"
  | .ac k => entryText "AC" k
  | .lagw k => entryText "LAGW" k
  | .lpc j => entryText "LPC" j
  | .rc j => entryText "RC" j
  | .x i => entryText "X" i
  | .win i => entryText "WIN" i
  | .xw i => entryText "XW" i

/-- A written location as text (R84). -/
def locSyntaxText : LocSyntax → String
  | .named l => locText l
  | .raw a => hexText a.toNat

/-- The mnemonic of an instruction (R73, R85, R86). -/
def mnemonicText : Instr → String
  | .regRead _ _ => "REG_READ"
  | .regWrite _ _ _ => "REG_WRITE"
  | .nop => "NOP"
  | .window => "WINDOW"
  | .autocorr => "AUTOCORR"
  | .condition => "CONDITION"
  | .recurse => "RECURSE"
  | .levinson => "LEVINSON"
  | .analyze => "ANALYZE"
  | .softreset => "SOFTRESET"

/-- The value of a write as text: the mnemonic where CMD is written a legal command word (R84). DESIGN CHOICE: any other value is
printed as `0x<hex>`, of the forms R81 has; R84 does not say in which (log entry 19; safe). -/
def valueText (l : LocSyntax) (v : Word) : String :=
  match l, decodeCmd v with
  | .named .cmd, .instr i => mnemonicText i
  | _, _ => hexText v.toNat

/-- A line as text (R84). -/
def lineText : Line → String
  | .rd size l => "rd" ++ sizeSuffix size ++ " " ++ locSyntaxText l
  | .wr size l v => "wr" ++ sizeSuffix size ++ " " ++ locSyntaxText l ++ ", " ++ valueText l v

end Sys2Proof.Machine
end

