-- ==== Sys2Proof/Safety.lean ====
section
/-! DEFINITION. What counts as a safe state and a safe run, in the terms claims use: the invariant every step keeps, the launch
premise `cleanIdle` (spec/70_reset_and_hazards.md R168) and the end of a run (spec/43_control_ops.md R139). -/

namespace Sys2Proof.Machine

/-- N and P are legal (spec/10_state.md R24, R25). -/
abbrev configLegal (s : State) : Prop := 1 ≤ s.n ∧ s.n ≤ Config.nMax ∧ 1 ≤ s.p ∧ s.p ≤ Config.pMax

/-- The storage keeps its canonical form and lists only array cells (spec/20_memory.md R68). -/
abbrev storageLegal (s : State) : Prop := s.mem.wf ∧ s.mem.inArrays

/-- ERRINFO is all zero while no error is recorded (spec/60_exceptions.md R145). -/
abbrev errInfoLegal (s : State) : Prop := s.ecode = .none → s.eaddr = 0 ∧ s.ewr = false ∧ s.eovr = false

/-- CMD holds an accepted word, what is pending ends its stage list, and DONE is set only when nothing is pending
(spec/10_state.md R26, R40, R42). -/
abbrev sequencerLegal (s : State) : Prop :=
  stagesOfWord s.cmd ≠ [] ∧ s.pending <:+ stagesOfWord s.cmd ∧ (s.done = true → s.pending = [])

/-- An error response carries RDATA = 0 (spec/60_exceptions.md R144). -/
abbrev responseLegal (s : State) : Prop := ∀ r ∈ s.response, r.err = true → r.rdata = 0

/-- The invariant of the machine. -/
abbrev State.Inv (s : State) : Prop :=
  configLegal s ∧ storageLegal s ∧ errInfoLegal s ∧ sequencerLegal s ∧ responseLegal s

/-- The launch premise of a claim about a run (spec/70_reset_and_hazards.md R168). -/
abbrev cleanIdle (s : State) : Prop :=
  s.pending = [] ∧ s.ecode = .none ∧ s.eovr = false ∧ s.done = false ∧ s.zero = false ∧ s.degen = false
    ∧ s.unstable = false ∧ s.nonfinite = false ∧ configLegal s

/-- The run of a host program has ended: its last statement is issued and answered, and no stage is pending
(spec/43_control_ops.md R139). -/
abbrev runEnded (s : State) : Prop := s.program = [] ∧ s.pending = []

/-- No host access has been rejected since ERRINFO was last cleared. -/
abbrev noErrorRecorded (s : State) : Prop := s.ecode = .none

end Sys2Proof.Machine
end

