-- ==== Sys2Proof/Certificates/Slice0/Obligations.lean ====
section
/-! DEFINITION. The statements for the provers, one per rule or group of rules of the spec, and the few notions they are written
in: the real value of a binary32 word, the copy form of the recursion (spec/42_levinson.md R130), and what a command leaves
unchanged. -/

namespace Sys2Proof.Claim

open Sys2Proof.Machine

/-! ### Notions -/

/-- The rational number a finite binary32 word denotes, from its sign, exponent and fraction fields (spec/00_scope.md R10). -/
def value (x : Number) : ℚ :=
  (if F32.sign x then -1 else 1)
    * (if F32.expo x = 0 then (F32.frac x : ℚ) * 2 ^ (-149 : ℤ)
       else ((2 : ℚ) ^ 23 + F32.frac x) * 2 ^ ((F32.expo x : ℤ) - 150))

/-- `r` is `exact` rounded to binary32, to nearest, ties to even: infinite exactly from half a unit above the largest finite number
on, with the sign of `exact`; otherwise no finite number is nearer, and the fraction is even where another is as near. -/
def RoundsCorrectly (exact : ℚ) (r : Number) : Prop :=
  F32.isNaN r = false
    ∧ (F32.isInf r = true ↔ (2 : ℚ) ^ 128 - 2 ^ 103 ≤ |exact|)
    ∧ (F32.isInf r = true → (F32.sign r = true ↔ exact < 0))
    ∧ (F32.isFinite r = true → ∀ w : Number, F32.isFinite w = true →
        |value r - exact| ≤ |value w - exact|
          ∧ (|value w - exact| = |value r - exact| → value w ≠ value r → r.toNat % 2 = 0))

/-- The same number: the same word, or two NaNs whatever their payloads. -/
abbrev SameNumber (a b : Number) : Prop := a = b ∨ (F32.isNaN a = true ∧ F32.isNaN b = true)

/-- An accepted write's answer. -/
def answered (s : State) : State := { s with response := some { err := false, rdata := 0 } }

/-- The state an accepted command leaves: its word in CMD, the flags clear, its stages pending (spec/40_host_access.md R95). -/
def accepted (i : Instr) (s : State) : State :=
  answered { s with
    cmd := commandWord i
    done := false
    zero := false
    degen := false
    unstable := false
    nonfinite := false
    pending := stagesOf i }

/-- Command i, issued in `s`, is accepted in one step, and as many engine steps as it has stages, one atomic step each, leave `t`
(spec/00_scope.md R13, spec/43_control_ops.md R136, R137; log entry 2). Host turns that come between leave the command alone
(CommandEqualsItsSteps). -/
def Completes (i : Instr) (s t : State) : Prop :=
  exec i s = .next (accepted i s) ∧ Nat.iterate engineStep (stagesOf i).length (accepted i s) = t

/-- The state after a rejected access: ERRINFO and the response, nothing else (spec/60_exceptions.md R144, R145). -/
def rejected (code : ErrCode) (addr : Nat) (we : Bool) (s : State) : State :=
  { s with
    ecode := if s.ecode = .none then code else s.ecode
    eaddr := if s.ecode = .none then BitVec.ofNat 14 addr else s.eaddr
    ewr := if s.ecode = .none then we else s.ewr
    eovr := if s.ecode = .none then s.eovr else true
    response := some { err := true, rdata := 0 } }

/-- A read of the word at an offset is answered with `w`, and nothing else changes (spec/40_host_access.md R85). -/
def ReadsAs (s : State) (offset : Nat) (w : Word) : Prop :=
  exec (.regRead 2 offset) s = .next { s with response := some { err := false, rdata := w } }

/-- What every completed command of word `w` but SOFTRESET leaves, results and result flags apart: configuration, ERRINFO, the
floor constants and the surroundings as they were, the command done and answered. -/
def CommandFrame (w : Word) (s t : State) : Prop :=
  t.winen = s.winen ∧ t.infmt = s.infmt ∧ t.ie = s.ie ∧ t.n = s.n ∧ t.p = s.p ∧ t.cmd = w ∧ t.done = true ∧ t.pending = []
    ∧ t.ecode = s.ecode ∧ t.eaddr = s.eaddr ∧ t.ewr = s.ewr ∧ t.eovr = s.eovr ∧ t.nfAdd = s.nfAdd ∧ t.nfMul = s.nfMul
    ∧ t.program = s.program ∧ t.schedule = s.schedule ∧ t.pinHeld = s.pinHeld
    ∧ t.response = some { err := false, rdata := 0 }

/-- Every byte outside the offsets from `lo` up to `hi` reads as before. -/
def BytesKeptOutside (lo hi : Nat) (s t : State) : Prop := ∀ a, a < lo ∨ hi ≤ a → t.mem.read a = s.mem.read a

/-- The number of an error code, from the table of spec/60_exceptions.md R143; 0 while none is recorded. -/
def errNumber : ErrCode → Nat
  | .none => 0
  | .size => 1
  | .misaligned => 2
  | .unmapped => 3
  | .busy => 4
  | .readonly => 5
  | .badParam => 6
  | .illegalCmd => 7

/-- The four result flags are clear. -/
def ResultFlagsClear (t : State) : Prop := t.zero = false ∧ t.degen = false ∧ t.unstable = false ∧ t.nonfinite = false

/-- Sample i after conversion, as spec/41_signal_ops.md R103 writes it. -/
def sample (s : State) (i : Nat) : Number :=
  if s.infmt = false then F32.fromInt16 ((xAt s i).extractLsb' 0 16) else xAt s i

/-- `d <- +0; for i in k .. n-1: d <- d + (x[i] * x[i-k])`, by index (spec/41_signal_ops.md R105). -/
def lagByIndex (x : Nat → Number) (n k : Nat) : Number :=
  (List.range (n - k)).foldl (fun d j => F32.add d (F32.mul (x (k + j)) (x (k + j - k)))) F32.zero

/-- The recursion in copy form (spec/42_levinson.md R130): the coefficients as functions of their index. -/
structure CopyForm where
  a : Nat → Number
  k : Nat → Number
  e : Number
  zero : Bool
  degen : Bool
  unstable : Bool
  nonfinite : Bool

/-- q of iteration i (spec/42_levinson.md R118). -/
def copyReflection (r a : Nat → Number) (e : Number) (i : Nat) : Number :=
  F32.div ((List.range i).foldl (fun q j => F32.sub q (F32.mul (a j) (r (i - j)))) (F32.neg (r (i + 1)))) e

/-- The order-(i+1) coefficients from the order-i ones, all from the old values; the middle one is written as R119 writes it. -/
def copyCoefficient (q : Number) (i : Nat) (a : Nat → Number) (j : Nat) : Number :=
  if j = i then q
  else if i < j then a j
  else if 2 * j + 1 = i then F32.add (a j) (F32.mul (a j) q)
  else F32.add (a j) (F32.mul q (a (i - 1 - j)))

/-- Iteration i with its q (spec/42_levinson.md R116). -/
def copyIterate (q : Number) (i : Nat) (c : CopyForm) : CopyForm :=
  { a := copyCoefficient q i c.a
    k := fun j => if j = i then q else c.k j
    e := F32.mul c.e (F32.sub F32.one (F32.mul q q))
    zero := c.zero
    degen := c.degen
    unstable := c.unstable || !F32.lt (F32.abs q) F32.one
    nonfinite := c.nonfinite || !F32.isFinite q
      || (List.range (i + 1)).any (fun j => !F32.isFinite (copyCoefficient q i c.a j))
      || !F32.isFinite (F32.mul c.e (F32.sub F32.one (F32.mul q q))) }

/-- The loop from iteration i on, with its early stop (spec/42_levinson.md R116, R121). -/
def copyLoop (r : Nat → Number) : Nat → Nat → CopyForm → CopyForm
  | 0, _, c => c
  | todo + 1, i, c =>
    if F32.lt F32.zero c.e = false ∨ F32.isFinite c.e = false then { c with degen := true }
    else copyLoop r todo (i + 1) (copyIterate (copyReflection r c.a c.e i) i c)

/-- The outputs cleared, E given (spec/42_levinson.md R122). -/
def copyStart (e : Number) : CopyForm :=
  { a := fun _ => 0x00000000, k := fun _ => 0x00000000, e := e, zero := false, degen := false, unstable := false, nonfinite := false }

/-- The whole recursion of order p on lags r: pre-checks, then the loop (spec/42_levinson.md R116, R117). -/
def copyRecursion (p : Nat) (r : Nat → Number) : CopyForm :=
  if (List.range (p + 1)).any (fun m => !F32.isFinite (r m)) then
    { copyStart 0x00000000 with nonfinite := true, degen := true }
  else if F32.eq (r 0) F32.zero then { copyStart 0x00000000 with zero := true }
  else copyLoop r p 0 (copyStart (r 0))

end Sys2Proof.Claim

open Sys2Proof Sys2Proof.Machine Sys2Proof.Claim

/-! ### Encoding -/

/-- Decoding the code word of a well-formed instruction gives it back, every operand at every value the encoding admits
(spec/30_encoding.md R70, R72 to R74). -/
def Obligations.DecodeEncodeAgree : Prop := ∀ i : Instr, i.wellFormed = true → decode (encode i) = .instr i

/-- Encoding what a request word decodes to gives the word back; of a read, with WDATA, which the block ignores, cleared
(spec/30_encoding.md R70, R80). -/
def Obligations.EncodeDecodedRequest : Prop :=
  ∀ w : BitVec 49,
    (reqWe w = true → encode (decodeReq w) = .hostreq w)
      ∧ (reqWe w = false → encode (decodeReq w) = .hostreq (w &&& 0x1FFFF00000000))

/-- spec/30_encoding.md R74: the decoding of every command word with its stages; exactly the words 0 to 7 are legal, and writing
any other one is rejected with ILLEGAL_CMD. -/
def Obligations.CommandWordDecoding : Prop :=
  ∀ w : Word,
    (w = 0x0 → decodeCmd w = .instr .nop ∧ stagesOfWord w = [.nop])
      ∧ (w = 0x1 → decodeCmd w = .instr .window ∧ stagesOfWord w = [.window])
      ∧ (w = 0x2 → decodeCmd w = .instr .autocorr ∧ stagesOfWord w = [.autocorr])
      ∧ (w = 0x3 → decodeCmd w = .instr .condition ∧ stagesOfWord w = [.condition])
      ∧ (w = 0x4 → decodeCmd w = .instr .recurse ∧ stagesOfWord w = [.recurse])
      ∧ (w = 0x5 → decodeCmd w = .instr .levinson ∧ stagesOfWord w = [.condition, .recurse])
      ∧ (w = 0x6 → decodeCmd w = .instr .analyze ∧ stagesOfWord w = [.window, .autocorr, .condition, .recurse])
      ∧ (w = 0x7 → decodeCmd w = .instr .softreset ∧ stagesOfWord w = [.softreset])
      ∧ (8 ≤ w.toNat → decodeCmd w = .reject .illegalCmd
          ∧ ∀ s : State, s.pending = [] → exec (.regWrite 2 0x010 w) s = .next (rejected .illegalCmd 0x010 true s))

/-- A few words written out in the spec decode to what they stand for (spec/30_encoding.md R83, spec/95_test_vectors.md). -/
def Obligations.SpecWordsDecode : Prop :=
  decode (.hostreq 0x1801000000006) = .instr (.regWrite 2 0x010 6)
    ∧ decode (.hostreq 0x0801400000000) = .instr (.regRead 2 0x014)
    ∧ decode (.hostreq 0x140140000003E) = .instr (.regWrite 1 0x014 0x3E)
    ∧ decode (.cmd 0x00000005) = .instr .levinson
    ∧ decode (.cmd 0x00000010) = .reject .illegalCmd

/-- Assembling what a request word disassembles to gives the word back, if it is a write or a read with WDATA = 0, as a listing
writes reads (spec/30_encoding.md R81, R84). -/
def Obligations.AssembleDisassembleAgree : Prop :=
  ∀ w : BitVec 49, reqWe w = true ∨ reqData w = 0 → assemble (disassemble w) = w

/-! ### The register map and the access check -/

/-- The location at an offset is the one that exists and lies there, and every other offset is unmapped (spec/10_state.md R21). -/
def Obligations.RegisterMapExact : Prop :=
  ∀ (a : Nat) (l : Loc), locate a = some l ↔ locExists l = true ∧ locOffset l = a

/-- spec/60_exceptions.md R146: each error is reported exactly when its check is the first that fails, and the access is accepted
exactly when none fails. -/
def Obligations.AccessCheckPriority : Prop :=
  ∀ (we : Bool) (size : BitVec 2) (addr : Nat) (data : Word) (s : State),
    (accessCheck we size addr data s = .error .size ↔ size ≠ 2)
      ∧ (accessCheck we size addr data s = .error .misaligned ↔ size = 2 ∧ addr % 4 ≠ 0)
      ∧ (accessCheck we size addr data s = .error .unmapped ↔ size = 2 ∧ addr % 4 = 0 ∧ locate addr = none)
      ∧ (accessCheck we size addr data s = .error .busy ↔
          size = 2 ∧ locate addr ≠ none ∧ s.pending ≠ [] ∧ ¬(we = false ∧ (addr = 0x014 ∨ addr = 0x018)))
      ∧ (accessCheck we size addr data s = .error .readonly ↔
          size = 2 ∧ we = true ∧ s.pending = []
            ∧ (locate addr = some .id ∨ locate addr = some .err ∨ (∃ j, locate addr = some (.lpc j))
                ∨ (∃ j, locate addr = some (.rc j)) ∨ (∃ i, locate addr = some (.xw i))))
      ∧ (accessCheck we size addr data s = .error .badParam ↔
          size = 2 ∧ we = true ∧ s.pending = []
            ∧ ((addr = 0x008 ∧ ¬(1 ≤ data.toNat ∧ data.toNat ≤ 1024)) ∨ (addr = 0x00C ∧ ¬(1 ≤ data.toNat ∧ data.toNat ≤ 16))))
      ∧ (accessCheck we size addr data s = .error .illegalCmd ↔
          size = 2 ∧ we = true ∧ s.pending = [] ∧ addr = 0x010 ∧ decodeCmd data = .reject .illegalCmd)
      ∧ accessCheck we size addr data s ≠ .error .none
      ∧ ∀ l, accessCheck we size addr data s = .ok l → locate addr = some l

/-- A rejected access answers {ERR = 1, RDATA = 0} and changes nothing but ERRINFO, which keeps its first record and counts later
errors as OVERRUN (spec/60_exceptions.md R144, R145). -/
def Obligations.RejectedAccessChangesOnlyErrInfo : Prop :=
  ∀ (size : BitVec 2) (addr : Nat) (data : Word) (s : State) (c : ErrCode),
    (accessCheck false size addr 0 s = .error c → exec (.regRead size addr) s = .next (rejected c addr false s))
      ∧ (accessCheck true size addr data s = .error c → exec (.regWrite size addr data) s = .next (rejected c addr true s))

/-- spec/10_state.md R41: BUSY is `pending ≠ []`; while it is 1 every access but a read of STATUS or ERRINFO is rejected, and those
reads are answered. -/
def Obligations.BusyAdmitsOnlyTwoReads : Prop :=
  ∀ s : State, (busy s = true ↔ s.pending ≠ [])
    ∧ (s.pending ≠ [] →
        (∀ (size : BitVec 2) (addr : Nat) (data : Word), ∃ c, exec (.regWrite size addr data) s = .next (rejected c addr true s))
          ∧ (∀ (size : BitVec 2) (addr : Nat), ¬(size = 2 ∧ (addr = 0x014 ∨ addr = 0x018)) →
              ∃ c, exec (.regRead size addr) s = .next (rejected c addr false s))
          ∧ ReadsAs s 0x014 (statusWord s) ∧ ReadsAs s 0x018 (errInfoWord s))

/-! ### Host reads and writes -/

/-- spec/40_host_access.md R87: the value a read returns, per location, for a block with no command in progress (STATUS and ERRINFO
in any state); nothing but the response changes (R85). The CODE field of ERRINFO holds the numbers of spec/60_exceptions.md R143. -/
def Obligations.ReadValuePerLocation : Prop :=
  ∀ s : State,
    ReadsAs s 0x014 (BitVec.ofNat 32
        ((stageField s).toNat * 256 + s.nonfinite.toNat * 32 + s.unstable.toNat * 16 + s.degen.toNat * 8 + s.zero.toNat * 4
          + s.done.toNat * 2 + (busy s).toNat))
      ∧ ReadsAs s 0x018 (BitVec.ofNat 32
        (s.eovr.toNat * 2 ^ 31 + s.ewr.toNat * 2 ^ 30 + s.eaddr.toNat * 2 ^ 16 + errNumber s.ecode))
      ∧ (s.pending = [] →
          ReadsAs s 0x000 0x4C504301
            ∧ ReadsAs s 0x004 (BitVec.ofNat 32 (s.ie.toNat * 4 + s.infmt.toNat * 2 + s.winen.toNat))
            ∧ ReadsAs s 0x008 (BitVec.ofNat 32 s.n) ∧ ReadsAs s 0x00C (BitVec.ofNat 32 s.p)
            ∧ ReadsAs s 0x010 s.cmd ∧ ReadsAs s 0x01C s.nfAdd ∧ ReadsAs s 0x020 s.nfMul ∧ ReadsAs s 0x024 s.err
            ∧ (∀ k, k ≤ 16 → ReadsAs s (0x100 + 4 * k) (s.mem.readWord (0x100 + 4 * k))
                ∧ ReadsAs s (0x180 + 4 * k) (s.mem.readWord (0x180 + 4 * k)))
            ∧ (∀ j, j < 16 → ReadsAs s (0x200 + 4 * j) (s.mem.readWord (0x200 + 4 * j))
                ∧ ReadsAs s (0x280 + 4 * j) (s.mem.readWord (0x280 + 4 * j)))
            ∧ (∀ i, i < 1024 → ReadsAs s (0x1000 + 4 * i) (s.mem.readWord (0x1000 + 4 * i))
                ∧ ReadsAs s (0x2000 + 4 * i) (s.mem.readWord (0x2000 + 4 * i))
                ∧ ReadsAs s (0x3000 + 4 * i) (s.mem.readWord (0x3000 + 4 * i))))

/-- spec/40_host_access.md R88: a write to CTRL sets the three bits, ignores the others and writes no flag, irq then following the new
IE; it fails only while a command is in progress. -/
def Obligations.WriteCtrlSetsThreeBits : Prop :=
  ∀ (v : Word) (s : State),
    (s.pending = [] → ∃ t, exec (.regWrite 2 0x004 v) s = .next t
        ∧ t = answered { s with winen := v.getLsbD 0, infmt := v.getLsbD 1, ie := v.getLsbD 2 }
        ∧ (irq t = true ↔ v.getLsbD 2 = true ∧ s.done = true))
      ∧ (s.pending ≠ [] → exec (.regWrite 2 0x004 v) s = .next (rejected .busy 0x004 true s))

/-- A write to CFG_N or CFG_P stores a value in range and nothing else; any other value is BAD_PARAM and leaves the register as it was
(spec/40_host_access.md R90, R91). -/
def Obligations.WriteConfigChecksRange : Prop :=
  ∀ (v : Word) (s : State), s.pending = [] →
    (1 ≤ v.toNat ∧ v.toNat ≤ 1024 → exec (.regWrite 2 0x008 v) s = .next (answered { s with n := v.toNat }))
      ∧ (¬(1 ≤ v.toNat ∧ v.toNat ≤ 1024) → exec (.regWrite 2 0x008 v) s = .next (rejected .badParam 0x008 true s))
      ∧ (1 ≤ v.toNat ∧ v.toNat ≤ 16 → exec (.regWrite 2 0x00C v) s = .next (answered { s with p := v.toNat }))
      ∧ (¬(1 ≤ v.toNat ∧ v.toNat ≤ 16) → exec (.regWrite 2 0x00C v) s = .next (rejected .badParam 0x00C true s))

/-- spec/40_host_access.md R92: a write to STATUS clears exactly the flags it names; while a command is in progress it is a BUSY
error. -/
def Obligations.WriteStatusClearsNamedFlags : Prop :=
  ∀ (v : Word) (s : State),
    (s.pending = [] → exec (.regWrite 2 0x014 v) s
        = .next (answered { s with
            done := s.done && !v.getLsbD 1
            zero := s.zero && !v.getLsbD 2
            degen := s.degen && !v.getLsbD 3
            unstable := s.unstable && !v.getLsbD 4
            nonfinite := s.nonfinite && !v.getLsbD 5 }))
      ∧ (s.pending ≠ [] → exec (.regWrite 2 0x014 v) s = .next (rejected .busy 0x014 true s))

/-- spec/40_host_access.md R93: a write to ERRINFO, whatever its value, clears it; while a command is in progress it is a BUSY error
and is itself recorded. -/
def Obligations.WriteErrInfoClearsIt : Prop :=
  ∀ (v : Word) (s : State),
    (s.pending = [] → exec (.regWrite 2 0x018 v) s
        = .next (answered { s with ecode := .none, eaddr := 0, ewr := false, eovr := false }))
      ∧ (s.pending ≠ [] → exec (.regWrite 2 0x018 v) s = .next (rejected .busy 0x018 true s))

/-- spec/40_host_access.md R95: acceptance stores the word, clears the five flags and sets `pending` to the command's stages, which is
never empty; it performs no stage. That a command's own instruction is the write of its word is log entry 2 (DEDUCED from
spec/30_encoding.md R69, spec/41_signal_ops.md R100 and R94). -/
def Obligations.AcceptanceStartsTheCommand : Prop :=
  ∀ (v : Word) (i : Instr) (s : State), s.pending = [] → decodeCmd v = .instr i →
    exec (.regWrite 2 0x010 v) s
        = .next (answered { s with
            cmd := v
            done := false
            zero := false
            degen := false
            unstable := false
            nonfinite := false
            pending := stagesOf i })
      ∧ exec i s = exec (.regWrite 2 0x010 v) s
      ∧ stagesOf i ≠ []

/-- A write to a storage location of the arrays stores the word there and leaves every other byte and everything else as it was
(spec/40_host_access.md R89, spec/20_memory.md R68). -/
def Obligations.WriteArrayEntryStoresIt : Prop :=
  ∀ (l : Loc) (v : Word) (s : State), s.pending = [] → locExists l = true →
    ((∃ k, l = .ac k) ∨ (∃ k, l = .lagw k) ∨ (∃ i, l = .x i) ∨ (∃ i, l = .win i)) →
    ∃ t, exec (.regWrite 2 (locOffset l) v) s = .next t
      ∧ t.mem.readWord (locOffset l) = v
      ∧ BytesKeptOutside (locOffset l) (locOffset l + 4) s t
      ∧ { t with mem := s.mem } = answered s

/-- A write to NF_ADD or NF_MUL stores any bit pattern and nothing else (spec/40_host_access.md R89). -/
def Obligations.WriteFloorConstantsStoresThem : Prop :=
  ∀ (v : Word) (s : State), s.pending = [] →
    exec (.regWrite 2 0x01C v) s = .next (answered { s with nfAdd := v })
      ∧ exec (.regWrite 2 0x020 v) s = .next (answered { s with nfMul := v })

/-- After a successful write a read of the same location gives the written value (the three bits of CTRL, the cleared value of STATUS
and ERRINFO, the accepted word of CMD) (spec/40_host_access.md R96). -/
def Obligations.ReadBackAfterWrite : Prop :=
  ∀ (l : Loc) (v : Word) (s : State), accessCheck true 2 (locOffset l) v s = .ok l →
    ∃ t, exec (.regWrite 2 (locOffset l) v) s = .next t
      ∧ (l = .ctrl → readValue l t = v &&& 0x00000007)
      ∧ (l = .status → readValue l t = readValue l s &&& ~~~(v &&& 0x0000003E))
      ∧ (l = .errinfo → readValue l t = 0x00000000)
      ∧ (l ≠ .ctrl → l ≠ .status → l ≠ .errinfo → readValue l t = v)

/-! ### State, flags and reset -/

/-- spec/10_state.md R40: the STAGE codes, and how `pending` changes: set by the acceptance of a command while it is empty, shortened
by an engine step of its head, emptied by the reset pin. -/
def Obligations.PendingIsTheSequencer : Prop :=
  (∀ s : State, s.pending = [] → stageField s = 0)
    ∧ (∀ (s : State) (rest : List Stage),
        (s.pending = .window :: rest → stageField s = 1) ∧ (s.pending = .autocorr :: rest → stageField s = 2)
          ∧ (s.pending = .condition :: rest → stageField s = 3) ∧ (s.pending = .recurse :: rest → stageField s = 4)
          ∧ (s.pending = .nop :: rest → stageField s = 5) ∧ (s.pending = .softreset :: rest → stageField s = 6))
    ∧ ∀ s t : State, step s = .next t →
        t.pending = s.pending
          ∨ (s.pending = [] ∧ (s.schedule = [] ∨ s.schedule.head? = some .host) ∧ s.pinHeld = false
              ∧ t.pending = stagesOfWord t.cmd)
          ∨ ((s.schedule = [] ∨ s.schedule.head? = some .engine) ∧ s.pinHeld = false
              ∧ (t.pending = s.pending.tail ∨ (s.pending.head? = some .softreset ∧ t.pending = [])))
          ∨ (s.schedule.head? = some .pinRise ∧ t.pending = [])

/-- spec/10_state.md R43: irq is IE ∧ DONE; a W1C write of DONE, the acceptance of a command and reset lower it. -/
def Obligations.IrqIsIeAndDone : Prop :=
  ∀ s : State,
    (irq s = true ↔ s.ie = true ∧ s.done = true)
      ∧ irq (pinRise s) = false ∧ irq (stageSoftreset s) = false
      ∧ (s.pending = [] → ∀ v : Word,
          (v.getLsbD 1 = true → ∃ t, exec (.regWrite 2 0x014 v) s = .next t ∧ irq t = false)
            ∧ (v.toNat < 8 → ∃ t, exec (.regWrite 2 0x010 v) s = .next t ∧ irq t = false))

/-- spec/10_state.md R45: every field after the reset pin and after SOFTRESET (which then sets DONE); State.reset is that state. -/
def Obligations.ResetValues : Prop :=
  ∀ s t : State, t = State.reset ∨ t = pinRise s ∨ t = stageSoftreset s →
    t.winen = true ∧ t.infmt = false ∧ t.ie = false ∧ ctrlWord t = 0x00000001 ∧ t.n = 240 ∧ t.p = 10 ∧ t.cmd = 0x00000000
      ∧ (t = stageSoftreset s ∨ t.done = false) ∧ (t = stageSoftreset s → t.done = true)
      ∧ ResultFlagsClear t ∧ t.ecode = .none ∧ t.eaddr = 0 ∧ t.ewr = false ∧ t.eovr = false ∧ errInfoWord t = 0x00000000
      ∧ t.nfAdd = 0x41200000 ∧ t.nfMul = 0x3F800347 ∧ t.err = 0x00000000
      ∧ (∀ k, k ≤ 16 → acAt t k = 0x00000000 ∧ lagwAt t k = lagwTable.getD k 0)
      ∧ (∀ j, j < 16 → lpcAt t j = 0x00000000 ∧ rcAt t j = 0x00000000)
      ∧ (∀ i, i < 1024 → xAt t i = 0x00000000 ∧ xwAt t i = 0x00000000 ∧ winAt t i = winTable.getD i 0)
      ∧ t.pending = [] ∧ busy t = false ∧ stageField t = 0 ∧ irq t = false

/-- spec/70_reset_and_hazards.md R163: asserting the pin resets every field and abandons the command; while it is held neither agent
steps and a host access has no step at all; released, the block is idle. -/
def Obligations.ResetPinAbandonsEverything : Prop :=
  ∀ (s : State) (rest : List Turn),
    (s.schedule = .pinRise :: rest →
        step s = .next { State.reset with program := s.program, schedule := rest, pinHeld := true, response := s.response })
      ∧ (s.pinHeld = true → s.schedule = .engine :: rest → step s = .next { s with schedule := rest })
      ∧ (s.pinHeld = true → s.schedule = [] → step s = .next s)
      ∧ (s.pinHeld = true → s.schedule = .host :: rest → s.program = [] → step s = .next { s with schedule := rest })
      ∧ (s.pinHeld = true → s.schedule = .host :: rest → s.program ≠ [] → step s = .fault .accessWhileReset)
      ∧ (s.schedule = .pinRise :: .pinFall :: rest →
          ∃ t u, step s = .next t ∧ step t = .next u ∧ busy u = false ∧ u.done = false ∧ irq u = false
            ∧ errInfoWord u = 0x00000000 ∧ u.pinHeld = false)

/-- spec/70_reset_and_hazards.md R165: the SOFTRESET stage and the pin leave the same state but for DONE; SOFTRESET, a command, is
accepted only while none is in progress, the pin abandons one. -/
def Obligations.SoftresetAgainstThePin : Prop :=
  ∀ s t u : State, t = performStage .softreset s → u = pinRise s →
    u = { t with done := false, pinHeld := true } ∧ t.done = true ∧ u.done = false
      ∧ u.pending = [] ∧ t.pending = [] ∧ t.ecode = .none ∧ t.eaddr = 0 ∧ t.ewr = false ∧ t.eovr = false
      ∧ t.nfAdd = 0x41200000 ∧ t.nfMul = 0x3F800347 ∧ t.n = 240 ∧ t.p = 10
      ∧ (∀ i, i < 1024 → winAt t i = winTable.getD i 0) ∧ (∀ k, k ≤ 16 → lagwAt t k = lagwTable.getD k 0)
      ∧ (s.pending = [] → ∃ v, exec (.regWrite 2 0x010 7) s = .next v ∧ v.pending = [.softreset])
      ∧ (s.pending ≠ [] → exec (.regWrite 2 0x010 7) s = .next (rejected .busy 0x010 true s))

/-- The stages but SOFTRESET only set result flags, never clear one, and touch neither ERRINFO nor the configuration, CMD or the floor
constants (spec/10_state.md R42, spec/20_memory.md R61). -/
def Obligations.StagesOnlySetFlags : Prop :=
  ∀ (st : Stage) (s t : State), st ≠ .softreset → t = performStage st s →
    (s.zero = true → t.zero = true) ∧ (s.degen = true → t.degen = true) ∧ (s.unstable = true → t.unstable = true)
      ∧ (s.nonfinite = true → t.nonfinite = true) ∧ t.done = s.done
      ∧ t.ecode = s.ecode ∧ t.eaddr = s.eaddr ∧ t.ewr = s.ewr ∧ t.eovr = s.eovr
      ∧ t.winen = s.winen ∧ t.infmt = s.infmt ∧ t.ie = s.ie ∧ t.n = s.n ∧ t.p = s.p ∧ t.cmd = s.cmd
      ∧ t.nfAdd = s.nfAdd ∧ t.nfMul = s.nfMul ∧ t.pending = s.pending
      ∧ (st = .nop → t = s)
      ∧ (st ≠ .recurse → t.err = s.err ∧ t.zero = s.zero ∧ t.degen = s.degen ∧ t.unstable = s.unstable)

/-- The first recorded error stays recorded, its OVERRUN once set stays set, until a write to ERRINFO, a SOFTRESET or the reset pin
clears the whole record (spec/60_exceptions.md R145). -/
def Obligations.FirstErrorIsKept : Prop :=
  ∀ s t : State, step s = .next t → s.ecode ≠ .none →
    (t.ecode = s.ecode ∧ t.eaddr = s.eaddr ∧ t.ewr = s.ewr ∧ (s.eovr = true → t.eovr = true))
      ∨ (t.ecode = .none ∧ t.eaddr = 0 ∧ t.ewr = false ∧ t.eovr = false
          ∧ (s.schedule.head? = some .pinRise ∨ s.pending.head? = some .softreset
              ∨ (s.pending = [] ∧ ∃ c rest, s.program = .code c :: rest
                  ∧ ∃ size addr data, instrOf c = .regWrite size addr data ∧ locate addr = some .errinfo)))

/-! ### Numbers -/

/-- Sums and differences of finite numbers are correctly rounded; an exact sum of 0 is −0 only for two negative operands, an exact
difference of 0 only for −0 less +0 (spec/00_scope.md R10). -/
def Obligations.SumIsCorrectlyRounded : Prop :=
  ∀ a b : Number, F32.isFinite a = true → F32.isFinite b = true →
    RoundsCorrectly (value a + value b) (F32.add a b) ∧ RoundsCorrectly (value a - value b) (F32.sub a b)
      ∧ (value a + value b = 0 →
          F32.add a b = if F32.sign a = true ∧ F32.sign b = true then 0x80000000 else 0x00000000)
      ∧ (value a - value b = 0 →
          F32.sub a b = if F32.sign a = true ∧ F32.sign b = false then 0x80000000 else 0x00000000)

/-- Products of finite numbers are correctly rounded, with the exclusive or of the signs (spec/00_scope.md R10). -/
def Obligations.ProductIsCorrectlyRounded : Prop :=
  ∀ a b : Number, F32.isFinite a = true → F32.isFinite b = true →
    RoundsCorrectly (value a * value b) (F32.mul a b) ∧ F32.sign (F32.mul a b) = (F32.sign a != F32.sign b)

/-- Quotients of finite numbers by a finite number other than ±0 are correctly rounded, with the exclusive or of the signs
(spec/00_scope.md R10). -/
def Obligations.QuotientIsCorrectlyRounded : Prop :=
  ∀ a b : Number, F32.isFinite a = true → F32.isFinite b = true → value b ≠ 0 →
    RoundsCorrectly (value a / value b) (F32.div a b) ∧ F32.sign (F32.div a b) = (F32.sign a != F32.sign b)

/-- The operations outside the finite numbers: NaN operands and invalid operations give a NaN, division by ±0 an infinity, by an
infinity a zero, and an infinity otherwise stays one (spec/00_scope.md R10). What payload a NaN has is a free value; nothing here
rests on it. -/
def Obligations.SpecialOperands : Prop :=
  ∀ a b : Number,
    (F32.isNaN a = true ∨ F32.isNaN b = true →
        F32.isNaN (F32.add a b) = true ∧ F32.isNaN (F32.sub a b) = true ∧ F32.isNaN (F32.mul a b) = true
          ∧ F32.isNaN (F32.div a b) = true)
      ∧ (F32.isInf a = true → F32.isInf b = true →
          F32.isNaN (F32.div a b) = true ∧ (F32.sign a ≠ F32.sign b → F32.isNaN (F32.add a b) = true ∧ F32.sub a b = a)
            ∧ (F32.sign a = F32.sign b → F32.isNaN (F32.sub a b) = true ∧ F32.add a b = a))
      ∧ (F32.isInf a = true → F32.isZero b = true → F32.isNaN (F32.mul a b) = true ∧ F32.isNaN (F32.mul b a) = true)
      ∧ (F32.isInf a = true → F32.isNaN b = false → F32.isZero b = false →
          F32.isInf (F32.mul a b) = true ∧ F32.isInf (F32.mul b a) = true
            ∧ F32.sign (F32.mul a b) = (F32.sign a != F32.sign b) ∧ F32.sign (F32.mul b a) = (F32.sign a != F32.sign b))
      ∧ (F32.isInf a = true → F32.isFinite b = true →
          F32.add a b = a ∧ F32.add b a = a ∧ F32.sub a b = a ∧ F32.sub b a = F32.neg a
            ∧ F32.isInf (F32.div a b) = true ∧ F32.sign (F32.div a b) = (F32.sign a != F32.sign b)
            ∧ F32.isZero (F32.div b a) = true ∧ F32.sign (F32.div b a) = (F32.sign a != F32.sign b))
      ∧ (F32.isZero a = true → F32.isZero b = true → F32.isNaN (F32.div a b) = true)
      ∧ (F32.isFinite a = true → F32.isZero a = false → F32.isZero b = true →
          F32.isInf (F32.div a b) = true ∧ F32.sign (F32.div a b) = (F32.sign a != F32.sign b))

/-- `lt` and `eq` are the quiet comparisons: of the values of finite numbers, −0 equal to +0; an infinity equal to itself alone, above
or below every other number by its sign; false for NaN. Of every word, `neg` flips the sign and `abs` clears it, and both keep the
other bits (spec/00_scope.md R10). -/
def Obligations.ComparisonsFollowTheValues : Prop :=
  ∀ a b : Number,
    (F32.isFinite a = true → F32.isFinite b = true →
        (F32.lt a b = true ↔ value a < value b) ∧ (F32.eq a b = true ↔ value a = value b))
      ∧ (F32.isNaN a = true ∨ F32.isNaN b = true → F32.lt a b = false ∧ F32.eq a b = false)
      ∧ (F32.isInf a = true → F32.isNaN b = false →
        (F32.eq a b = true ↔ a = b) ∧ (F32.eq b a = true ↔ a = b)
          ∧ (F32.lt a b = true ↔ F32.sign a = true ∧ a ≠ b) ∧ (F32.lt b a = true ↔ F32.sign a = false ∧ a ≠ b))
      ∧ F32.sign (F32.neg a) = !F32.sign a ∧ F32.mag (F32.neg a) = F32.mag a
      ∧ F32.sign (F32.abs a) = false ∧ F32.mag (F32.abs a) = F32.mag a
      ∧ (F32.isFinite a = true → value (F32.neg a) = -value a ∧ value (F32.abs a) = |value a|)

/-- Every 16-bit integer is converted exactly (spec/00_scope.md R10, spec/41_signal_ops.md R103). -/
def Obligations.Int16ConversionIsExact : Prop :=
  ∀ v : BitVec 16, F32.isFinite (F32.fromInt16 v) = true ∧ value (F32.fromInt16 v) = (v.toInt : ℚ)
    ∧ (v = 0 → F32.fromInt16 v = 0x00000000)

/-- With NF_ADD = 0 and NF_MUL = 1.0 the floor is the identity but for −0, which becomes +0, and the lag weight 1.0 is the identity
on every number that is no NaN (spec/42_levinson.md R115). -/
def Obligations.NeutralConditioning : Prop :=
  ∀ x : Number, F32.isNaN x = false →
    F32.mul (F32.add x 0x00000000) 0x3F800000 = (if x = 0x80000000 then 0x00000000 else x)
      ∧ F32.mul x 0x3F800000 = x

/-! ### The commands -/

/-- NOP does nothing and completes (spec/41_signal_ops.md R101). -/
def Obligations.NopCompletes : Prop :=
  ∀ s : State, s.pending = [] →
    Completes .nop s (answered { s with
      cmd := 0x00000000, done := true, zero := false, degen := false, unstable := false, nonfinite := false })

/-- A command issued while another is in progress is turned away with a BUSY error and none of its effect
(spec/40_host_access.md R94, spec/43_control_ops.md R135). -/
def Obligations.CommandWhileBusyIsTurnedAway : Prop :=
  ∀ (i : Instr) (s : State), stagesOf i ≠ [] → s.pending ≠ [] → exec i s = .next (rejected .busy 0x010 true s)

/-- WINDOW writes all of XW: the converted samples, weighted when WINEN = 1, then zeros; NONFINITE says that one of them is not
finite; nothing else changes (spec/41_signal_ops.md R102 to R104). Every weighted sample is the rounded product, −0.0 too (spec/00_scope.md
R9 to R11): R104's remark that −0.0 stays −0.0 under every weight is not followed (log entry 7). -/
def Obligations.WindowWritesTheSignal : Prop :=
  ∀ s : State, s.pending = [] → s.n ≤ 1024 →
    ∃ t, Completes .window s t ∧ CommandFrame 0x1 s t ∧ BytesKeptOutside 0x3000 0x4000 s t ∧ t.err = s.err
      ∧ t.zero = false ∧ t.degen = false ∧ t.unstable = false
      ∧ (∀ i, i < s.n → xwAt t i = if s.winen then F32.mul (sample s i) (winAt s i) else sample s i)
      ∧ (∀ i, s.n ≤ i → i < 1024 → xwAt t i = 0x00000000)
      ∧ (t.nonfinite = true ↔ ∃ i, i < s.n ∧ F32.isFinite (xwAt t i) = false)

/-- AUTOCORR writes all of AC: for each lag to P the sum over ascending i, then zeros; NONFINITE says that one of them is not finite;
nothing else changes (spec/41_signal_ops.md R105, R106). -/
def Obligations.AutocorrWritesTheLags : Prop :=
  ∀ s : State, s.pending = [] → s.n ≤ 1024 → s.p ≤ 16 →
    ∃ t, Completes .autocorr s t ∧ CommandFrame 0x2 s t ∧ BytesKeptOutside 0x100 0x144 s t ∧ t.err = s.err
      ∧ t.zero = false ∧ t.degen = false ∧ t.unstable = false
      ∧ (∀ k, k ≤ s.p → acAt t k = lagByIndex (xwAt s) s.n k)
      ∧ (∀ k, s.n ≤ k → k ≤ 16 → acAt t k = 0x00000000)
      ∧ (∀ k, s.p < k → k ≤ 16 → acAt t k = 0x00000000)
      ∧ (t.nonfinite = true ↔ ∃ k, k ≤ s.p ∧ F32.isFinite (acAt t k) = false)

/-- After AUTOCORR lag 0 is never negative and never −0; it is a NaN if an entry of the signal is (spec/41_signal_ops.md R106). -/
def Obligations.AutocorrLagZeroIsNotNegative : Prop :=
  ∀ s : State, s.pending = [] →
    ∃ t, Completes .autocorr s t
      ∧ (F32.isNaN (acAt t 0) = true ∨ F32.sign (acAt t 0) = false)
      ∧ ((∃ i, i < s.n ∧ F32.isNaN (xwAt s i) = true) → F32.isNaN (acAt t 0) = true)

/-- No flag of AUTOCORR depends on a NaN's payload: signals equal but for NaN payloads give lags equal but for NaN payloads and the same
NONFINITE (spec/93_implementation_defined.md I3). -/
def Obligations.AutocorrIgnoresNanPayloads : Prop :=
  ∀ s s' : State, s.pending = [] → s'.pending = [] → s.n = s'.n → s.p = s'.p →
    (∀ i, i < s.n → SameNumber (xwAt s i) (xwAt s' i)) →
    ∃ t t', Completes .autocorr s t ∧ Completes .autocorr s' t' ∧ t.nonfinite = t'.nonfinite
      ∧ ∀ k, k ≤ 16 → SameNumber (acAt t k) (acAt t' k)

/-- CONDITION floors lag 0, then weights every lag to P; the lags above P and everything else stay; NONFINITE says that a conditioned
lag is not finite (spec/42_levinson.md R113 to R115). -/
def Obligations.ConditionFloorsAndWeights : Prop :=
  ∀ s : State, s.pending = [] → s.p ≤ 16 →
    ∃ t, Completes .condition s t ∧ CommandFrame 0x3 s t ∧ BytesKeptOutside 0x100 (0x100 + 4 * (s.p + 1)) s t ∧ t.err = s.err
      ∧ t.zero = false ∧ t.degen = false ∧ t.unstable = false
      ∧ acAt t 0 = F32.mul (F32.mul (F32.add (acAt s 0) s.nfAdd) s.nfMul) (lagwAt s 0)
      ∧ (∀ k, 1 ≤ k → k ≤ s.p → acAt t k = F32.mul (acAt s k) (lagwAt s k))
      ∧ (t.nonfinite = true ↔ ∃ k, k ≤ s.p ∧ F32.isFinite (acAt t k) = false)

/-- RECURSE is the recursion in copy form: its LPC, RC, ERR and flags, and nothing else changes (spec/42_levinson.md R116 to R121,
R127, R130). That a produced NaN is the same word in both forms rests on log entry 3 (DEDUCED); the issue of a command is log entry
2. -/
def Obligations.RecurseIsTheCopyForm : Prop :=
  ∀ s : State, s.pending = [] → s.p ≤ 16 →
    ∃ t, Completes .recurse s t ∧ CommandFrame 0x4 s t
      ∧ (∀ a, ¬(0x200 ≤ a ∧ a < 0x240) → ¬(0x280 ≤ a ∧ a < 0x2C0) → t.mem.read a = s.mem.read a)
      ∧ (∀ j, j < 16 → lpcAt t j = (copyRecursion s.p (acAt s)).a j ∧ rcAt t j = (copyRecursion s.p (acAt s)).k j)
      ∧ t.err = (copyRecursion s.p (acAt s)).e ∧ t.zero = (copyRecursion s.p (acAt s)).zero
      ∧ t.degen = (copyRecursion s.p (acAt s)).degen ∧ t.unstable = (copyRecursion s.p (acAt s)).unstable
      ∧ t.nonfinite = (copyRecursion s.p (acAt s)).nonfinite

/-- spec/42_levinson.md R117: the pre-checks of the stage RECURSE in their order, on the lags 0 to P alone: which flags each sets (the
others stay as they were), and the outputs it leaves. -/
def Obligations.RecursePrechecks : Prop :=
  ∀ s t : State, s.p ≤ 16 → t = performStage .recurse s →
    ((∃ m, m ≤ s.p ∧ F32.isFinite (acAt s m) = false) →
        t.nonfinite = true ∧ t.degen = true ∧ t.zero = s.zero ∧ t.unstable = s.unstable
          ∧ t.err = 0x00000000 ∧ ∀ j, j < 16 → lpcAt t j = 0x00000000 ∧ rcAt t j = 0x00000000)
      ∧ ((∀ m, m ≤ s.p → F32.isFinite (acAt s m) = true) → (acAt s 0 = 0x00000000 ∨ acAt s 0 = 0x80000000) →
        t.zero = true ∧ t.degen = s.degen ∧ t.nonfinite = s.nonfinite ∧ t.unstable = s.unstable
          ∧ t.err = 0x00000000 ∧ ∀ j, j < 16 → lpcAt t j = 0x00000000 ∧ rcAt t j = 0x00000000)

/-- spec/42_levinson.md R122: the entries from P on are +0 after every RECURSE, and its outputs are a function of AC[0..P] and P alone,
the flags too where they were equal before. That a produced NaN is the same word in both runs rests on log entry 3 (DEDUCED). -/
def Obligations.RecurseOutputsDependOnLagsAlone : Prop :=
  ∀ s s' t t' : State, s.p ≤ 16 → s.p = s'.p → (∀ k, k ≤ s.p → acAt s k = acAt s' k) →
    t = performStage .recurse s → t' = performStage .recurse s' →
    (∀ j, j < 16 → lpcAt t j = lpcAt t' j ∧ rcAt t j = rcAt t' j) ∧ t.err = t'.err
      ∧ (∀ j, s.p ≤ j → j < 16 → lpcAt t j = 0x00000000 ∧ rcAt t j = 0x00000000)
      ∧ (s.zero = s'.zero → t.zero = t'.zero) ∧ (s.degen = s'.degen → t.degen = t'.degen)
      ∧ (s.unstable = s'.unstable → t.unstable = t'.unstable) ∧ (s.nonfinite = s'.nonfinite → t.nonfinite = t'.nonfinite)

/-- ZERO and DEGEN are never both set by one RECURSE, and UNSTABLE is set exactly when some reflection coefficient it left fails
abs(k) < 1 (spec/42_levinson.md R125, R126). -/
def Obligations.RecurseFlagsDescribeTheRun : Prop :=
  ∀ s : State, s.pending = [] → s.p ≤ 16 →
    ∃ t, Completes .recurse s t ∧ ¬(t.zero = true ∧ t.degen = true)
      ∧ (t.unstable = true ↔ ∃ j, j < s.p ∧ F32.lt (F32.abs (rcAt t j)) F32.one = false)
      ∧ (t.degen = false → t.zero = false → F32.isFinite t.err = false → t.nonfinite = true)

/-- A negative lag 0 stops the recursion before its first iteration: DEGEN, all coefficients 0, ERR = AC[0] (spec/42_levinson.md R121). -/
def Obligations.RecurseStopsOnNegativeEnergy : Prop :=
  ∀ s : State, s.pending = [] → 1 ≤ s.p → s.p ≤ 16 → (∀ m, m ≤ s.p → F32.isFinite (acAt s m) = true) →
    F32.lt (acAt s 0) F32.zero = true →
    ∃ t, Completes .recurse s t ∧ t.degen = true ∧ t.zero = false ∧ t.unstable = false ∧ t.nonfinite = false
      ∧ t.err = acAt s 0 ∧ ∀ j, j < 16 → lpcAt t j = 0x00000000 ∧ rcAt t j = 0x00000000

/-- RECURSE of order 1 on finite lags with a positive lag 0: k = −ac[1]/ac[0], a = k, ERR = ac[0]·(1 − k·k)
(spec/42_levinson.md R118 to R120). -/
def Obligations.RecurseOfOrderOne : Prop :=
  ∀ s : State, s.pending = [] → s.p = 1 → F32.isFinite (acAt s 0) = true → F32.isFinite (acAt s 1) = true →
    F32.lt F32.zero (acAt s 0) = true →
    ∃ t q, Completes .recurse s t ∧ q = F32.div (F32.neg (acAt s 1)) (acAt s 0) ∧ lpcAt t 0 = q ∧ rcAt t 0 = q
      ∧ t.err = F32.mul (acAt s 0) (F32.sub F32.one (F32.mul q q)) ∧ t.degen = false ∧ t.zero = false
      ∧ (t.unstable = true ↔ F32.lt (F32.abs q) F32.one = false)

/-- The in-place coefficient update computes, entry by entry, the copy form from the old values (spec/42_levinson.md R119, R130). That
a produced NaN is the same word in both forms rests on log entry 3 (DEDUCED). -/
def Obligations.InPlaceUpdateIsTheCopyForm : Prop :=
  ∀ (q : Number) (i j : Nat) (a : List Number), i < a.length → j < a.length →
    (updateCoefficients q i a).getD j F32.zero = copyCoefficient q i (fun m => a.getD m F32.zero) j

/-- RECURSE twice leaves what RECURSE once leaves (spec/42_levinson.md R123; log entries 2 and 3). -/
def Obligations.RecurseIsIdempotent : Prop :=
  ∀ s : State, s.pending = [] → s.mem.wf → s.p ≤ 16 → ∃ t, Completes .recurse s t ∧ Completes .recurse t t

/-- WINDOW twice leaves what WINDOW once leaves, and so does AUTOCORR (spec/41_signal_ops.md R104, spec/40_host_access.md R94;
log entries 2 and 3). -/
def Obligations.WindowAndAutocorrAreIdempotent : Prop :=
  ∀ s : State, s.pending = [] → s.mem.wf → s.n ≤ 1024 → s.p ≤ 16 →
    (∃ t, Completes .window s t ∧ Completes .window t t)
      ∧ (∃ t, Completes .autocorr s t ∧ Completes .autocorr t t)

/-- LEVINSON is CONDITION then RECURSE, with the union of their flags (spec/42_levinson.md R128). That a produced NaN is the same word in
both ways rests on log entry 3 (DEDUCED); the issue of a command is log entry 2. -/
def Obligations.LevinsonIsItsTwoStages : Prop :=
  ∀ s : State, s.pending = [] →
    ∃ t1 t2 t, Completes .condition s t1 ∧ Completes .recurse t1 t2 ∧ Completes .levinson s t
      ∧ t = { t2 with cmd := 0x5, nonfinite := t1.nonfinite || t2.nonfinite }

/-- ANALYZE is WINDOW, AUTOCORR, CONDITION and RECURSE issued one at a time, with the union of their flags (spec/43_control_ops.md R133,
spec/60_exceptions.md R156). That a produced NaN is the same word in both ways rests on log entry 3 (DEDUCED); the issue of a command
is log entry 2. -/
def Obligations.AnalyzeIsItsFourStages : Prop :=
  ∀ s : State, s.pending = [] →
    ∃ t1 t2 t3 t4 t, Completes .window s t1 ∧ Completes .autocorr t1 t2 ∧ Completes .condition t2 t3
      ∧ Completes .recurse t3 t4 ∧ Completes .analyze s t
      ∧ t = { t4 with cmd := 0x6, nonfinite := t1.nonfinite || t2.nonfinite || t3.nonfinite || t4.nonfinite }

/-- ANALYZE twice on unchanged inputs leaves the whole state ANALYZE once leaves: LPC, RC, ERR and flags, as
spec/43_control_ops.md R133 says, XW and AC too, by the pseudocode (spec/41_signal_ops.md R102, R105; spec/42_levinson.md R115,
R116). R133's remark that ANALYZE is not idempotent in AC is not followed (log entry 20). That a
produced NaN is the same word both times rests on log entry 3 (DEDUCED); the issue of a command is log entry 2. -/
def Obligations.AnalyzeTwiceGivesTheSameResults : Prop :=
  ∀ s : State, s.pending = [] → s.mem.wf → s.n ≤ 1024 → s.p ≤ 16 →
    ∃ t, Completes .analyze s t ∧ Completes .analyze t t

/-- spec/43_control_ops.md R134: SOFTRESET leaves the reset state with DONE set (so CMD reads 0 and irq is low); while a command is in
progress it is a BUSY error. -/
def Obligations.SoftresetRestoresTheResetState : Prop :=
  ∀ s : State,
    (s.pending = [] → Completes .softreset s
        (answered { State.reset with done := true, program := s.program, schedule := s.schedule, pinHeld := s.pinHeld }))
      ∧ (s.pending ≠ [] → exec .softreset s = .next (rejected .busy 0x010 true s))

/-! ### The engine and the step -/

/-- When the host's next statement is a code word that decodes to an instruction and the turn is the host's, step is exec of that
instruction, the statement issued and the turn taken; with the schedule empty the turn is the host's when nothing is pending. An
illegal command word is issued as the write that carries it (the model's choice, log entry 17). -/
def Obligations.StepRunsTheDecodedInstruction : Prop :=
  ∀ (s : State) (c : CodeWord) (rest : List HostStmt), s.pinHeld = false → s.program = .code c :: rest →
    (∀ i, decode c = .instr i →
        (∀ ts, s.schedule = .host :: ts → step s = exec i { s with schedule := ts, program := rest })
          ∧ (s.schedule = [] → s.pending = [] → step s = exec i { s with program := rest }))
      ∧ (∀ w ts, c = .cmd w → decode c = .reject .illegalCmd → s.schedule = .host :: ts →
          step s = exec (.regWrite 2 0x010 w) { s with schedule := ts, program := rest })

/-- `wait` reads STATUS, again while BUSY is 1, and is complete when BUSY reads 0 (spec/30_encoding.md R82, spec/43_control_ops.md R139). -/
def Obligations.WaitPollsStatus : Prop :=
  ∀ (s : State) (rest : List HostStmt) (ts : List Turn), s.pinHeld = false → s.program = .wait :: rest → s.schedule = .host :: ts →
    (s.pending ≠ [] → step s = .next { s with schedule := ts, response := some { err := false, rdata := statusWord s } })
      ∧ (s.pending = [] →
          step s = .next { s with schedule := ts, program := rest, response := some { err := false, rdata := statusWord s } })
      ∧ ((statusWord s).getLsbD 0 = true ↔ s.pending ≠ [])

/-- spec/43_control_ops.md R136: an engine step performs the head of `pending` and drops it, setting DONE when it was the last;
SOFTRESET sets both itself; with nothing pending there is no engine step. -/
def Obligations.EngineStepPerformsTheHead : Prop :=
  ∀ (s : State) (st : Stage) (rest : List Stage) (ts : List Turn), s.pinHeld = false → s.schedule = .engine :: ts →
    (s.pending = st :: rest → st ≠ .softreset →
        step s = .next { performStage st { s with schedule := ts } with pending := rest, done := s.done || rest.isEmpty })
      ∧ (s.pending = .softreset :: rest →
        step s = .next { State.reset with
          done := true, program := s.program, schedule := ts, pinHeld := false, response := s.response })
      ∧ (s.pending = [] → step s = .next { s with schedule := ts })

/-- An accepted command left to the engine completes after exactly as many steps as it has stages, with DONE set, and irq high if IE
is 1 and it was no SOFTRESET (spec/43_control_ops.md R137, spec/70_reset_and_hazards.md R178). -/
def Obligations.AcceptedCommandCompletes : Prop :=
  ∀ s : State, s.pinHeld = false → s.schedule = [] → s.pending ≠ [] → s.pending <:+ stagesOfWord s.cmd →
    (∀ k, k < s.pending.length → ∃ t : State, Host.Core.run core k s = .next t ∧ t.pending.length = s.pending.length - k)
      ∧ ∃ t : State, Host.Core.run core s.pending.length s = .next t ∧ t.pending = [] ∧ t.done = true
          ∧ (s.ie = true → s.pending ≠ [.softreset] → irq t = true)

/-- Issued by its command word or by the request that writes it, and the turns then left to the default order, a command takes one
step of the host and one step per stage to the state it completes in; a host turn that comes between changes nothing but the
surroundings, ERRINFO and the response (log entries 1, 2; spec/00_scope.md R13, R14, spec/20_memory.md R61, spec/43_control_ops.md R137). -/
def Obligations.CommandEqualsItsSteps : Prop :=
  (∀ (i : Instr) (s t : State) (rest : List HostStmt) (c : CodeWord), stagesOf i ≠ [] → s.pending = [] → s.pinHeld = false →
    s.schedule = [] → (c = encode i ∨ c = .hostreq (packReq true 2 0x010 (commandWord i))) →
    Completes i { s with program := rest } t →
      Host.Core.run core (1 + (stagesOf i).length) { s with program := .code c :: rest } = .next t)
    ∧ ∀ (s t : State) (ts : List Turn), s.pending ≠ [] → s.schedule = .host :: ts → step s = .next t →
      t = { s with
        schedule := ts, program := t.program, response := t.response
        ecode := t.ecode, eaddr := t.eaddr, ewr := t.ewr, eovr := t.eovr }

/-- No step is refused, and a step faults only where the host would access the block while the reset pin is held: no input, data or
command stops the block (spec/00_scope.md R16, spec/70_reset_and_hazards.md R163). -/
def Obligations.NothingStopsTheBlock : Prop :=
  ∀ s : State,
    (∀ r, step s ≠ .refused r)
      ∧ (∀ f, step s = .fault f ↔
          f = .accessWhileReset ∧ s.pinHeld = true ∧ s.program ≠ [] ∧ s.schedule.head? = some .host)

/-- Every step keeps the invariant: N and P legal, the storage canonical and within the arrays, ERRINFO zero while no error is
recorded, CMD an accepted word whose stage list `pending` ends, DONE only when nothing is pending, RDATA 0 with an error. -/
def Obligations.StepKeepsTheInvariant : Prop := ∀ s t : State, s.Inv → step s = .next t → t.Inv

/-- The invariant holds after reset. -/
def Obligations.ResetMeetsTheInvariant : Prop := State.reset.Inv
end

