-- ==== Sys2Proof/Laws/Memory.lean ====
section
/-! SUPPORT. The laws of the one memory: what a read gives after a store, that a store keeps the canonical form and the array
cells, and that two canonical memories that read alike are the same list. -/

namespace Sys2Proof.Machine

/-! ### Reading -/

@[simp] theorem Memory.read_nil (a : Nat) : Memory.read [] a = Memory.unlisted a := rfl

theorem Memory.read_cons (c : Host.Cell) (m : Memory) (a : Nat) :
    Memory.read (c :: m) a = if c.1 = a then c.2 else m.read a := rfl

theorem Memory.read_of_not_listed {m : Memory} {a : Nat} (h : ∀ c ∈ m, c.1 ≠ a) : m.read a = Memory.unlisted a := by
  induction m with
  | nil => rfl
  | cons c m ih => rw [Memory.read_cons, if_neg (h c (by simp)), ih (fun d hd => h d (by simp [hd]))]

theorem Memory.read_append_right {m m' : Memory} {a : Nat} (h : ∀ c ∈ m, c.1 ≠ a) :
    Memory.read (m ++ m') a = m'.read a := by
  induction m with
  | nil => rfl
  | cons c m ih =>
    rw [List.cons_append, Memory.read_cons, if_neg (h c (by simp)), ih (fun d hd => h d (by simp [hd]))]

theorem Memory.read_append_left {m m' : Memory} {a : Nat} (h : ∀ c ∈ m', c.1 ≠ a) :
    Memory.read (m ++ m') a = m.read a := by
  induction m with
  | nil => exact Memory.read_of_not_listed h
  | cons c m ih => rw [List.cons_append, Memory.read_cons, Memory.read_cons, ih]

theorem Memory.read_filter {m : Memory} {a : Nat} {q : Nat → Bool} (h : q a = true) :
    Memory.read (m.filter (fun c => q c.1)) a = m.read a := by
  induction m with
  | nil => rfl
  | cons c m ih =>
    by_cases hc : q c.1 = true
    · rw [List.filter_cons_of_pos (p := fun c : Host.Cell => q c.1) hc, Memory.read_cons, Memory.read_cons, ih]
    · rw [List.filter_cons_of_neg (p := fun c : Host.Cell => q c.1) hc, ih, Memory.read_cons, if_neg (fun e : c.1 = a => hc (by rw [e]; exact h))]

/-! ### The cells of a block -/

theorem cellsOf_range {bs : List Byte} {base : Nat} {c : Host.Cell} (h : c ∈ cellsOf base bs) :
    base ≤ c.1 ∧ c.1 < base + bs.length := by
  induction bs generalizing base with
  | nil => simp [cellsOf] at h
  | cons b bs ih =>
    unfold cellsOf at h
    split at h
    · have := ih h; simp only [List.length_cons]; omega
    · rcases List.mem_cons.mp h with rfl | h
      · simp
      · have := ih h; simp only [List.length_cons]; omega

theorem cellsOf_listed {bs : List Byte} {base : Nat} {c : Host.Cell} (h : c ∈ cellsOf base bs) :
    c.2 ≠ Memory.unlisted c.1 := by
  induction bs generalizing base with
  | nil => simp [cellsOf] at h
  | cons b bs ih =>
    unfold cellsOf at h
    split at h
    · exact ih h
    · rcases List.mem_cons.mp h with rfl | h
      · assumption
      · exact ih h

theorem cellsOf_sorted (bs : List Byte) (base : Nat) :
    (cellsOf base bs).Pairwise (fun c d => c.1 < d.1) := by
  induction bs generalizing base with
  | nil => simp [cellsOf]
  | cons b bs ih =>
    unfold cellsOf
    split
    · exact ih _
    · refine List.pairwise_cons.mpr ⟨fun d hd => ?_, ih _⟩
      have := cellsOf_range hd
      simp only; omega

theorem read_cellsOf {bs : List Byte} {base a : Nat} (h1 : base ≤ a) (h2 : a < base + bs.length) :
    Memory.read (cellsOf base bs) a = bs.getD (a - base) 0 := by
  induction bs generalizing base with
  | nil => simp only [List.length_nil] at h2; omega
  | cons b bs ih =>
    simp only [List.length_cons] at h2
    by_cases ha : a = base
    · subst ha
      unfold cellsOf
      split
      · rw [Memory.read_of_not_listed (fun c hc => by have := cellsOf_range hc; omega)]
        simp_all
      · simp [Memory.read_cons]
    · have hget : (b :: bs).getD (a - base) 0 = bs.getD (a - (base + 1)) 0 := by
        rw [show a - base = (a - (base + 1)) + 1 from by omega, List.getD_cons_succ]
      rw [hget, ← ih (base := base + 1) (by omega) (by omega)]
      rw [cellsOf.eq_2]
      split
      · rfl
      · rw [Memory.read_cons, if_neg (fun e => ha e.symm)]

/-! ### The store -/

theorem Memory.read_store_outside {m : Memory} {base : Nat} {bs : List Byte} {a : Nat}
    (h : a < base ∨ base + bs.length ≤ a) : (m.store base bs).read a = m.read a := by
  unfold Memory.store
  rcases h with h | h
  · rw [Memory.read_append_left, Memory.read_filter (q := fun x => decide (x < base)) (by simpa using h)]
    intro c hc
    rcases List.mem_append.mp hc with hc | hc
    · have := cellsOf_range hc; omega
    · have := (List.mem_filter.mp hc).2; simp only [decide_eq_true_eq] at this; omega
  · rw [Memory.read_append_right, Memory.read_append_right,
      Memory.read_filter (q := fun x => decide (base + bs.length ≤ x)) (by simpa using h)]
    · intro c hc; have := cellsOf_range hc; omega
    · intro c hc; have := (List.mem_filter.mp hc).2; simp only [decide_eq_true_eq] at this; omega

theorem Memory.read_store_inside {m : Memory} {base : Nat} {bs : List Byte} {a : Nat}
    (h1 : base ≤ a) (h2 : a < base + bs.length) : (m.store base bs).read a = bs.getD (a - base) 0 := by
  unfold Memory.store
  rw [Memory.read_append_right, Memory.read_append_left, read_cellsOf h1 h2]
  · intro c hc; have := (List.mem_filter.mp hc).2; simp only [decide_eq_true_eq] at this; omega
  · intro c hc; have := (List.mem_filter.mp hc).2; simp only [decide_eq_true_eq] at this; omega

/-- A store keeps the canonical form. -/
theorem Memory.wf_store {m : Memory} (h : m.wf) (base : Nat) (bs : List Byte) : (m.store base bs).wf := by
  obtain ⟨hs, hv⟩ := h
  constructor
  · unfold Memory.store
    refine List.pairwise_append.mpr ⟨hs.filter _, ?_, ?_⟩
    · refine List.pairwise_append.mpr ⟨cellsOf_sorted bs base, hs.filter _, ?_⟩
      intro c hc d hd
      have h1 := cellsOf_range hc
      have h2 := (List.mem_filter.mp hd).2
      simp only [decide_eq_true_eq] at h2; omega
    · intro c hc d hd
      have h1 := (List.mem_filter.mp hc).2
      simp only [decide_eq_true_eq] at h1
      rcases List.mem_append.mp hd with hd | hd
      · have := cellsOf_range hd; omega
      · have h2 := (List.mem_filter.mp hd).2
        simp only [decide_eq_true_eq] at h2; omega
  · intro c hc
    unfold Memory.store at hc
    rcases List.mem_append.mp hc with hc | hc
    · exact hv c (List.mem_filter.mp hc).1
    · rcases List.mem_append.mp hc with hc | hc
      · exact cellsOf_listed hc
      · exact hv c (List.mem_filter.mp hc).1

/-- A store into array cells lists array cells only. -/
theorem Memory.inArrays_store {m : Memory} (h : m.inArrays) {base : Nat} {bs : List Byte}
    (hb : ∀ a, base ≤ a → a < base + bs.length → arrayCell a = true) : (m.store base bs).inArrays := by
  intro c hc
  unfold Memory.store at hc
  rcases List.mem_append.mp hc with hc | hc
  · exact h c (List.mem_filter.mp hc).1
  · rcases List.mem_append.mp hc with hc | hc
    · have := cellsOf_range hc; exact hb _ this.1 this.2
    · exact h c (List.mem_filter.mp hc).1

/-- The empty memory is canonical. -/
theorem Memory.wf_nil : Memory.wf [] := by simp [Memory.wf]

/-- Canonical memories that read alike everywhere are equal. -/
theorem Memory.ext_of_wf {m m' : Memory} (h : m.wf) (h' : m'.wf) (hr : ∀ a, m.read a = m'.read a) : m = m' := by
  induction m generalizing m' with
  | nil =>
    cases m' with
    | nil => rfl
    | cons d m' =>
      have := hr d.1
      rw [Memory.read_nil, Memory.read_cons, if_pos rfl] at this
      exact absurd this.symm (h'.2 d (by simp))
  | cons c m ih =>
    have hlt : ∀ d ∈ m, c.1 < d.1 := (List.pairwise_cons.mp h.1).1
    cases m' with
    | nil =>
      have := hr c.1
      rw [Memory.read_nil, Memory.read_cons, if_pos rfl] at this
      exact absurd this (h.2 c (by simp))
    | cons d m' =>
      have hlt' : ∀ e ∈ m', d.1 < e.1 := (List.pairwise_cons.mp h'.1).1
      have hcd : c.1 = d.1 := by
        rcases Nat.lt_trichotomy c.1 d.1 with hl | he | hg
        · have := hr c.1
          rw [Memory.read_cons, if_pos rfl, Memory.read_of_not_listed] at this
          · exact absurd this (h.2 c (by simp))
          · intro e he
            rcases List.mem_cons.mp he with rfl | he
            · omega
            · have := hlt' e he; omega
        · exact he
        · have := hr d.1
          rw [Memory.read_cons d, if_pos rfl, Memory.read_of_not_listed] at this
          · exact absurd this.symm (h'.2 d (by simp))
          · intro e he
            rcases List.mem_cons.mp he with rfl | he
            · omega
            · have := hlt e he; omega
      have hv : c.2 = d.2 := by
        have := hr c.1
        rwa [Memory.read_cons, if_pos rfl, Memory.read_cons, if_pos hcd.symm] at this
      have htail : m = m' := by
        refine ih ⟨(List.pairwise_cons.mp h.1).2, fun e he => h.2 e (by simp [he])⟩
          ⟨(List.pairwise_cons.mp h'.1).2, fun e he => h'.2 e (by simp [he])⟩ (fun a => ?_)
        by_cases ha : c.1 = a
        · rw [Memory.read_of_not_listed (fun e he => by have := hlt e he; omega),
            Memory.read_of_not_listed (fun e he => by have := hlt' e he; omega)]
        · have := hr a
          rwa [Memory.read_cons, if_neg ha, Memory.read_cons, if_neg (hcd ▸ ha)] at this
      rw [htail, Prod.ext hcd hv]

/-! ### Words -/

@[simp] theorem wordBytes_length (w : Word) : (wordBytes w).length = 4 := rfl

/-- The lanes of a word put together again (spec/20_memory.md R54). -/
theorem wordOfLanes_laneByte (w : Word) :
    wordOfLanes (laneByte w 0) (laneByte w 1) (laneByte w 2) (laneByte w 3) = w := by
  apply BitVec.eq_of_getLsbD_eq
  intro i hi
  simp only [wordOfLanes, laneByte, BitVec.getLsbD_append, BitVec.getLsbD_extractLsb']
  split
  · next h => simp [h]
  · split
    · next h h' => simp only [show i - 8 < 8 from h', decide_true, Bool.true_and]; congr 1; omega
    · split
      · next h h' h'' => simp only [show i - 8 - 8 < 8 from h'', decide_true, Bool.true_and]; congr 1; omega
      · next h h' h'' =>
        simp only [show i - 8 - 8 - 8 < 8 from by omega, decide_true, Bool.true_and]; congr 1; omega

@[simp] theorem flatMap_wordBytes_length (ws : List Word) : (ws.flatMap wordBytes).length = 4 * ws.length := by
  induction ws with
  | nil => rfl
  | cons w ws ih => simp only [List.flatMap_cons, List.length_append, ih, wordBytes_length, List.length_cons]; omega

/-- Lane `b` of entry `i` of a list of words laid out as bytes. -/
theorem flatMap_wordBytes_getD (ws : List Word) (i b : Nat) (hb : b < 4) (hi : i < ws.length) :
    (ws.flatMap wordBytes).getD (4 * i + b) 0 = laneByte (ws.getD i 0) b := by
  induction ws generalizing i with
  | nil => simp at hi
  | cons w ws ih =>
    rw [List.flatMap_cons]
    cases i with
    | zero =>
      rw [Nat.mul_zero, Nat.zero_add, List.getD_append _ _ _ _ (by simpa using hb), List.getD_cons_zero]
      have : b = 0 ∨ b = 1 ∨ b = 2 ∨ b = 3 := by omega
      rcases this with rfl | rfl | rfl | rfl <;> rfl
    | succ i =>
      rw [List.getD_append_right _ _ _ _ (by simp only [wordBytes_length]; omega), wordBytes_length,
        show 4 * (i + 1) + b - 4 = 4 * i + b from by omega, ih i (by simpa using hi), List.getD_cons_succ]

/-- Reading a word of an array just written gives the entry written. -/
theorem Memory.readWord_storeWords_inside {m : Memory} {base i : Nat} {ws : List Word} (hi : i < ws.length) :
    (m.storeWords base ws).readWord (base + 4 * i) = ws.getD i 0 := by
  have key : ∀ b, b < 4 → (m.storeWords base ws).read (base + 4 * i + b) = laneByte (ws.getD i 0) b := by
    intro b hb
    unfold Memory.storeWords
    rw [Memory.read_store_inside (by omega) (by rw [flatMap_wordBytes_length]; omega),
      show base + 4 * i + b - base = 4 * i + b from by omega, flatMap_wordBytes_getD ws i b hb hi]
  unfold Memory.readWord
  have h0 := key 0 (by omega)
  rw [Nat.add_zero] at h0
  rw [h0, key 1 (by omega), key 2 (by omega), key 3 (by omega), wordOfLanes_laneByte]

/-- Reading a word outside an array just written gives what it gave before. -/
theorem Memory.readWord_storeWords_outside {m : Memory} {base a : Nat} {ws : List Word}
    (h : a + 4 ≤ base ∨ base + 4 * ws.length ≤ a) : (m.storeWords base ws).readWord a = m.readWord a := by
  unfold Memory.readWord Memory.storeWords
  rw [Memory.read_store_outside, Memory.read_store_outside, Memory.read_store_outside, Memory.read_store_outside] <;>
    rw [flatMap_wordBytes_length] <;> omega

/-- Reading a byte outside an array just written gives what it gave before. -/
theorem Memory.read_storeWords_outside {m : Memory} {base a : Nat} {ws : List Word}
    (h : a < base ∨ base + 4 * ws.length ≤ a) : (m.storeWords base ws).read a = m.read a :=
  Memory.read_store_outside (by rwa [flatMap_wordBytes_length])

theorem Memory.wf_storeWords {m : Memory} (h : m.wf) (base : Nat) (ws : List Word) : (m.storeWords base ws).wf :=
  Memory.wf_store h _ _

theorem Memory.inArrays_storeWords {m : Memory} (h : m.inArrays) {base : Nat} {ws : List Word}
    (hb : ∀ a, base ≤ a → a < base + 4 * ws.length → arrayCell a = true) : (m.storeWords base ws).inArrays :=
  Memory.inArrays_store h (by rwa [flatMap_wordBytes_length])

end Sys2Proof.Machine
end

