-- ==== Sys2Proof/Laws/State.lean ====
section
/-! SUPPORT. One lemma per field of State per named update: what the update leaves in that field. They are the simp set with
which later proofs read a field after an update instead of unfolding it. -/

namespace Sys2Proof.Machine

variable (s : State)

@[simp] theorem respond_winen (r : Response) : (respond r s).winen = s.winen := rfl
@[simp] theorem respond_infmt (r : Response) : (respond r s).infmt = s.infmt := rfl
@[simp] theorem respond_ie (r : Response) : (respond r s).ie = s.ie := rfl
@[simp] theorem respond_n (r : Response) : (respond r s).n = s.n := rfl
@[simp] theorem respond_p (r : Response) : (respond r s).p = s.p := rfl
@[simp] theorem respond_cmd (r : Response) : (respond r s).cmd = s.cmd := rfl
@[simp] theorem respond_done (r : Response) : (respond r s).done = s.done := rfl
@[simp] theorem respond_zero (r : Response) : (respond r s).zero = s.zero := rfl
@[simp] theorem respond_degen (r : Response) : (respond r s).degen = s.degen := rfl
@[simp] theorem respond_unstable (r : Response) : (respond r s).unstable = s.unstable := rfl
@[simp] theorem respond_nonfinite (r : Response) : (respond r s).nonfinite = s.nonfinite := rfl
@[simp] theorem respond_ecode (r : Response) : (respond r s).ecode = s.ecode := rfl
@[simp] theorem respond_eaddr (r : Response) : (respond r s).eaddr = s.eaddr := rfl
@[simp] theorem respond_ewr (r : Response) : (respond r s).ewr = s.ewr := rfl
@[simp] theorem respond_eovr (r : Response) : (respond r s).eovr = s.eovr := rfl
@[simp] theorem respond_nfAdd (r : Response) : (respond r s).nfAdd = s.nfAdd := rfl
@[simp] theorem respond_nfMul (r : Response) : (respond r s).nfMul = s.nfMul := rfl
@[simp] theorem respond_err (r : Response) : (respond r s).err = s.err := rfl
@[simp] theorem respond_mem (r : Response) : (respond r s).mem = s.mem := rfl
@[simp] theorem respond_pending (r : Response) : (respond r s).pending = s.pending := rfl
@[simp] theorem respond_program (r : Response) : (respond r s).program = s.program := rfl
@[simp] theorem respond_schedule (r : Response) : (respond r s).schedule = s.schedule := rfl
@[simp] theorem respond_pinHeld (r : Response) : (respond r s).pinHeld = s.pinHeld := rfl
@[simp] theorem respond_response (r : Response) : (respond r s).response = some r := rfl

@[simp] theorem raiseError_winen (c : ErrCode) (a : Nat) (we : Bool) : (raiseError c a we s).winen = s.winen := by
  unfold raiseError; split <;> rfl
@[simp] theorem raiseError_infmt (c : ErrCode) (a : Nat) (we : Bool) : (raiseError c a we s).infmt = s.infmt := by
  unfold raiseError; split <;> rfl
@[simp] theorem raiseError_ie (c : ErrCode) (a : Nat) (we : Bool) : (raiseError c a we s).ie = s.ie := by
  unfold raiseError; split <;> rfl
@[simp] theorem raiseError_n (c : ErrCode) (a : Nat) (we : Bool) : (raiseError c a we s).n = s.n := by
  unfold raiseError; split <;> rfl
@[simp] theorem raiseError_p (c : ErrCode) (a : Nat) (we : Bool) : (raiseError c a we s).p = s.p := by
  unfold raiseError; split <;> rfl
@[simp] theorem raiseError_cmd (c : ErrCode) (a : Nat) (we : Bool) : (raiseError c a we s).cmd = s.cmd := by
  unfold raiseError; split <;> rfl
@[simp] theorem raiseError_done (c : ErrCode) (a : Nat) (we : Bool) : (raiseError c a we s).done = s.done := by
  unfold raiseError; split <;> rfl
@[simp] theorem raiseError_zero (c : ErrCode) (a : Nat) (we : Bool) : (raiseError c a we s).zero = s.zero := by
  unfold raiseError; split <;> rfl
@[simp] theorem raiseError_degen (c : ErrCode) (a : Nat) (we : Bool) : (raiseError c a we s).degen = s.degen := by
  unfold raiseError; split <;> rfl
@[simp] theorem raiseError_unstable (c : ErrCode) (a : Nat) (we : Bool) : (raiseError c a we s).unstable = s.unstable := by
  unfold raiseError; split <;> rfl
@[simp] theorem raiseError_nonfinite (c : ErrCode) (a : Nat) (we : Bool) : (raiseError c a we s).nonfinite = s.nonfinite := by
  unfold raiseError; split <;> rfl
@[simp] theorem raiseError_ecode (c : ErrCode) (a : Nat) (we : Bool) : (raiseError c a we s).ecode = if s.ecode = .none then c else s.ecode := by
  unfold raiseError; split <;> simp_all [respond]
@[simp] theorem raiseError_eaddr (c : ErrCode) (a : Nat) (we : Bool) : (raiseError c a we s).eaddr = if s.ecode = .none then BitVec.ofNat 14 a else s.eaddr := by
  unfold raiseError; split <;> simp_all [respond]
@[simp] theorem raiseError_ewr (c : ErrCode) (a : Nat) (we : Bool) : (raiseError c a we s).ewr = if s.ecode = .none then we else s.ewr := by
  unfold raiseError; split <;> simp_all [respond]
@[simp] theorem raiseError_eovr (c : ErrCode) (a : Nat) (we : Bool) : (raiseError c a we s).eovr = if s.ecode = .none then s.eovr else true := by
  unfold raiseError; split <;> simp_all [respond]
@[simp] theorem raiseError_nfAdd (c : ErrCode) (a : Nat) (we : Bool) : (raiseError c a we s).nfAdd = s.nfAdd := by
  unfold raiseError; split <;> rfl
@[simp] theorem raiseError_nfMul (c : ErrCode) (a : Nat) (we : Bool) : (raiseError c a we s).nfMul = s.nfMul := by
  unfold raiseError; split <;> rfl
@[simp] theorem raiseError_err (c : ErrCode) (a : Nat) (we : Bool) : (raiseError c a we s).err = s.err := by
  unfold raiseError; split <;> rfl
@[simp] theorem raiseError_mem (c : ErrCode) (a : Nat) (we : Bool) : (raiseError c a we s).mem = s.mem := by
  unfold raiseError; split <;> rfl
@[simp] theorem raiseError_pending (c : ErrCode) (a : Nat) (we : Bool) : (raiseError c a we s).pending = s.pending := by
  unfold raiseError; split <;> rfl
@[simp] theorem raiseError_program (c : ErrCode) (a : Nat) (we : Bool) : (raiseError c a we s).program = s.program := by
  unfold raiseError; split <;> rfl
@[simp] theorem raiseError_schedule (c : ErrCode) (a : Nat) (we : Bool) : (raiseError c a we s).schedule = s.schedule := by
  unfold raiseError; split <;> rfl
@[simp] theorem raiseError_pinHeld (c : ErrCode) (a : Nat) (we : Bool) : (raiseError c a we s).pinHeld = s.pinHeld := by
  unfold raiseError; split <;> rfl
@[simp] theorem raiseError_response (c : ErrCode) (a : Nat) (we : Bool) : (raiseError c a we s).response = some { err := true, rdata := 0 } := rfl

@[simp] theorem clearErrInfo_winen : (clearErrInfo s).winen = s.winen := rfl
@[simp] theorem clearErrInfo_infmt : (clearErrInfo s).infmt = s.infmt := rfl
@[simp] theorem clearErrInfo_ie : (clearErrInfo s).ie = s.ie := rfl
@[simp] theorem clearErrInfo_n : (clearErrInfo s).n = s.n := rfl
@[simp] theorem clearErrInfo_p : (clearErrInfo s).p = s.p := rfl
@[simp] theorem clearErrInfo_cmd : (clearErrInfo s).cmd = s.cmd := rfl
@[simp] theorem clearErrInfo_done : (clearErrInfo s).done = s.done := rfl
@[simp] theorem clearErrInfo_zero : (clearErrInfo s).zero = s.zero := rfl
@[simp] theorem clearErrInfo_degen : (clearErrInfo s).degen = s.degen := rfl
@[simp] theorem clearErrInfo_unstable : (clearErrInfo s).unstable = s.unstable := rfl
@[simp] theorem clearErrInfo_nonfinite : (clearErrInfo s).nonfinite = s.nonfinite := rfl
@[simp] theorem clearErrInfo_ecode : (clearErrInfo s).ecode = .none := rfl
@[simp] theorem clearErrInfo_eaddr : (clearErrInfo s).eaddr = 0 := rfl
@[simp] theorem clearErrInfo_ewr : (clearErrInfo s).ewr = false := rfl
@[simp] theorem clearErrInfo_eovr : (clearErrInfo s).eovr = false := rfl
@[simp] theorem clearErrInfo_nfAdd : (clearErrInfo s).nfAdd = s.nfAdd := rfl
@[simp] theorem clearErrInfo_nfMul : (clearErrInfo s).nfMul = s.nfMul := rfl
@[simp] theorem clearErrInfo_err : (clearErrInfo s).err = s.err := rfl
@[simp] theorem clearErrInfo_mem : (clearErrInfo s).mem = s.mem := rfl
@[simp] theorem clearErrInfo_pending : (clearErrInfo s).pending = s.pending := rfl
@[simp] theorem clearErrInfo_program : (clearErrInfo s).program = s.program := rfl
@[simp] theorem clearErrInfo_schedule : (clearErrInfo s).schedule = s.schedule := rfl
@[simp] theorem clearErrInfo_pinHeld : (clearErrInfo s).pinHeld = s.pinHeld := rfl
@[simp] theorem clearErrInfo_response : (clearErrInfo s).response = s.response := rfl

@[simp] theorem acceptCommand_winen (w : Word) (sts : List Stage) : (acceptCommand w sts s).winen = s.winen := rfl
@[simp] theorem acceptCommand_infmt (w : Word) (sts : List Stage) : (acceptCommand w sts s).infmt = s.infmt := rfl
@[simp] theorem acceptCommand_ie (w : Word) (sts : List Stage) : (acceptCommand w sts s).ie = s.ie := rfl
@[simp] theorem acceptCommand_n (w : Word) (sts : List Stage) : (acceptCommand w sts s).n = s.n := rfl
@[simp] theorem acceptCommand_p (w : Word) (sts : List Stage) : (acceptCommand w sts s).p = s.p := rfl
@[simp] theorem acceptCommand_cmd (w : Word) (sts : List Stage) : (acceptCommand w sts s).cmd = w := rfl
@[simp] theorem acceptCommand_done (w : Word) (sts : List Stage) : (acceptCommand w sts s).done = false := rfl
@[simp] theorem acceptCommand_zero (w : Word) (sts : List Stage) : (acceptCommand w sts s).zero = false := rfl
@[simp] theorem acceptCommand_degen (w : Word) (sts : List Stage) : (acceptCommand w sts s).degen = false := rfl
@[simp] theorem acceptCommand_unstable (w : Word) (sts : List Stage) : (acceptCommand w sts s).unstable = false := rfl
@[simp] theorem acceptCommand_nonfinite (w : Word) (sts : List Stage) : (acceptCommand w sts s).nonfinite = false := rfl
@[simp] theorem acceptCommand_ecode (w : Word) (sts : List Stage) : (acceptCommand w sts s).ecode = s.ecode := rfl
@[simp] theorem acceptCommand_eaddr (w : Word) (sts : List Stage) : (acceptCommand w sts s).eaddr = s.eaddr := rfl
@[simp] theorem acceptCommand_ewr (w : Word) (sts : List Stage) : (acceptCommand w sts s).ewr = s.ewr := rfl
@[simp] theorem acceptCommand_eovr (w : Word) (sts : List Stage) : (acceptCommand w sts s).eovr = s.eovr := rfl
@[simp] theorem acceptCommand_nfAdd (w : Word) (sts : List Stage) : (acceptCommand w sts s).nfAdd = s.nfAdd := rfl
@[simp] theorem acceptCommand_nfMul (w : Word) (sts : List Stage) : (acceptCommand w sts s).nfMul = s.nfMul := rfl
@[simp] theorem acceptCommand_err (w : Word) (sts : List Stage) : (acceptCommand w sts s).err = s.err := rfl
@[simp] theorem acceptCommand_mem (w : Word) (sts : List Stage) : (acceptCommand w sts s).mem = s.mem := rfl
@[simp] theorem acceptCommand_pending (w : Word) (sts : List Stage) : (acceptCommand w sts s).pending = sts := rfl
@[simp] theorem acceptCommand_program (w : Word) (sts : List Stage) : (acceptCommand w sts s).program = s.program := rfl
@[simp] theorem acceptCommand_schedule (w : Word) (sts : List Stage) : (acceptCommand w sts s).schedule = s.schedule := rfl
@[simp] theorem acceptCommand_pinHeld (w : Word) (sts : List Stage) : (acceptCommand w sts s).pinHeld = s.pinHeld := rfl
@[simp] theorem acceptCommand_response (w : Word) (sts : List Stage) : (acceptCommand w sts s).response = s.response := rfl

@[simp] theorem resetBlock_winen : (resetBlock s).winen = State.reset.winen := rfl
@[simp] theorem resetBlock_infmt : (resetBlock s).infmt = State.reset.infmt := rfl
@[simp] theorem resetBlock_ie : (resetBlock s).ie = State.reset.ie := rfl
@[simp] theorem resetBlock_n : (resetBlock s).n = State.reset.n := rfl
@[simp] theorem resetBlock_p : (resetBlock s).p = State.reset.p := rfl
@[simp] theorem resetBlock_cmd : (resetBlock s).cmd = State.reset.cmd := rfl
@[simp] theorem resetBlock_done : (resetBlock s).done = State.reset.done := rfl
@[simp] theorem resetBlock_zero : (resetBlock s).zero = State.reset.zero := rfl
@[simp] theorem resetBlock_degen : (resetBlock s).degen = State.reset.degen := rfl
@[simp] theorem resetBlock_unstable : (resetBlock s).unstable = State.reset.unstable := rfl
@[simp] theorem resetBlock_nonfinite : (resetBlock s).nonfinite = State.reset.nonfinite := rfl
@[simp] theorem resetBlock_ecode : (resetBlock s).ecode = State.reset.ecode := rfl
@[simp] theorem resetBlock_eaddr : (resetBlock s).eaddr = State.reset.eaddr := rfl
@[simp] theorem resetBlock_ewr : (resetBlock s).ewr = State.reset.ewr := rfl
@[simp] theorem resetBlock_eovr : (resetBlock s).eovr = State.reset.eovr := rfl
@[simp] theorem resetBlock_nfAdd : (resetBlock s).nfAdd = State.reset.nfAdd := rfl
@[simp] theorem resetBlock_nfMul : (resetBlock s).nfMul = State.reset.nfMul := rfl
@[simp] theorem resetBlock_err : (resetBlock s).err = State.reset.err := rfl
@[simp] theorem resetBlock_mem : (resetBlock s).mem = State.reset.mem := rfl
@[simp] theorem resetBlock_pending : (resetBlock s).pending = State.reset.pending := rfl
@[simp] theorem resetBlock_program : (resetBlock s).program = s.program := rfl
@[simp] theorem resetBlock_schedule : (resetBlock s).schedule = s.schedule := rfl
@[simp] theorem resetBlock_pinHeld : (resetBlock s).pinHeld = s.pinHeld := rfl
@[simp] theorem resetBlock_response : (resetBlock s).response = s.response := rfl

@[simp] theorem completeStage_winen (rest : List Stage) : (completeStage rest s).winen = s.winen := rfl
@[simp] theorem completeStage_infmt (rest : List Stage) : (completeStage rest s).infmt = s.infmt := rfl
@[simp] theorem completeStage_ie (rest : List Stage) : (completeStage rest s).ie = s.ie := rfl
@[simp] theorem completeStage_n (rest : List Stage) : (completeStage rest s).n = s.n := rfl
@[simp] theorem completeStage_p (rest : List Stage) : (completeStage rest s).p = s.p := rfl
@[simp] theorem completeStage_cmd (rest : List Stage) : (completeStage rest s).cmd = s.cmd := rfl
@[simp] theorem completeStage_done (rest : List Stage) : (completeStage rest s).done = (s.done || rest.isEmpty) := rfl
@[simp] theorem completeStage_zero (rest : List Stage) : (completeStage rest s).zero = s.zero := rfl
@[simp] theorem completeStage_degen (rest : List Stage) : (completeStage rest s).degen = s.degen := rfl
@[simp] theorem completeStage_unstable (rest : List Stage) : (completeStage rest s).unstable = s.unstable := rfl
@[simp] theorem completeStage_nonfinite (rest : List Stage) : (completeStage rest s).nonfinite = s.nonfinite := rfl
@[simp] theorem completeStage_ecode (rest : List Stage) : (completeStage rest s).ecode = s.ecode := rfl
@[simp] theorem completeStage_eaddr (rest : List Stage) : (completeStage rest s).eaddr = s.eaddr := rfl
@[simp] theorem completeStage_ewr (rest : List Stage) : (completeStage rest s).ewr = s.ewr := rfl
@[simp] theorem completeStage_eovr (rest : List Stage) : (completeStage rest s).eovr = s.eovr := rfl
@[simp] theorem completeStage_nfAdd (rest : List Stage) : (completeStage rest s).nfAdd = s.nfAdd := rfl
@[simp] theorem completeStage_nfMul (rest : List Stage) : (completeStage rest s).nfMul = s.nfMul := rfl
@[simp] theorem completeStage_err (rest : List Stage) : (completeStage rest s).err = s.err := rfl
@[simp] theorem completeStage_mem (rest : List Stage) : (completeStage rest s).mem = s.mem := rfl
@[simp] theorem completeStage_pending (rest : List Stage) : (completeStage rest s).pending = rest := rfl
@[simp] theorem completeStage_program (rest : List Stage) : (completeStage rest s).program = s.program := rfl
@[simp] theorem completeStage_schedule (rest : List Stage) : (completeStage rest s).schedule = s.schedule := rfl
@[simp] theorem completeStage_pinHeld (rest : List Stage) : (completeStage rest s).pinHeld = s.pinHeld := rfl
@[simp] theorem completeStage_response (rest : List Stage) : (completeStage rest s).response = s.response := rfl

@[simp] theorem storeArray_winen (base : Nat) (ws : List Word) : (storeArray base ws s).winen = s.winen := rfl
@[simp] theorem storeArray_infmt (base : Nat) (ws : List Word) : (storeArray base ws s).infmt = s.infmt := rfl
@[simp] theorem storeArray_ie (base : Nat) (ws : List Word) : (storeArray base ws s).ie = s.ie := rfl
@[simp] theorem storeArray_n (base : Nat) (ws : List Word) : (storeArray base ws s).n = s.n := rfl
@[simp] theorem storeArray_p (base : Nat) (ws : List Word) : (storeArray base ws s).p = s.p := rfl
@[simp] theorem storeArray_cmd (base : Nat) (ws : List Word) : (storeArray base ws s).cmd = s.cmd := rfl
@[simp] theorem storeArray_done (base : Nat) (ws : List Word) : (storeArray base ws s).done = s.done := rfl
@[simp] theorem storeArray_zero (base : Nat) (ws : List Word) : (storeArray base ws s).zero = s.zero := rfl
@[simp] theorem storeArray_degen (base : Nat) (ws : List Word) : (storeArray base ws s).degen = s.degen := rfl
@[simp] theorem storeArray_unstable (base : Nat) (ws : List Word) : (storeArray base ws s).unstable = s.unstable := rfl
@[simp] theorem storeArray_nonfinite (base : Nat) (ws : List Word) : (storeArray base ws s).nonfinite = s.nonfinite := rfl
@[simp] theorem storeArray_ecode (base : Nat) (ws : List Word) : (storeArray base ws s).ecode = s.ecode := rfl
@[simp] theorem storeArray_eaddr (base : Nat) (ws : List Word) : (storeArray base ws s).eaddr = s.eaddr := rfl
@[simp] theorem storeArray_ewr (base : Nat) (ws : List Word) : (storeArray base ws s).ewr = s.ewr := rfl
@[simp] theorem storeArray_eovr (base : Nat) (ws : List Word) : (storeArray base ws s).eovr = s.eovr := rfl
@[simp] theorem storeArray_nfAdd (base : Nat) (ws : List Word) : (storeArray base ws s).nfAdd = s.nfAdd := rfl
@[simp] theorem storeArray_nfMul (base : Nat) (ws : List Word) : (storeArray base ws s).nfMul = s.nfMul := rfl
@[simp] theorem storeArray_err (base : Nat) (ws : List Word) : (storeArray base ws s).err = s.err := rfl
@[simp] theorem storeArray_mem (base : Nat) (ws : List Word) : (storeArray base ws s).mem = s.mem.storeWords base ws := rfl
@[simp] theorem storeArray_pending (base : Nat) (ws : List Word) : (storeArray base ws s).pending = s.pending := rfl
@[simp] theorem storeArray_program (base : Nat) (ws : List Word) : (storeArray base ws s).program = s.program := rfl
@[simp] theorem storeArray_schedule (base : Nat) (ws : List Word) : (storeArray base ws s).schedule = s.schedule := rfl
@[simp] theorem storeArray_pinHeld (base : Nat) (ws : List Word) : (storeArray base ws s).pinHeld = s.pinHeld := rfl
@[simp] theorem storeArray_response (base : Nat) (ws : List Word) : (storeArray base ws s).response = s.response := rfl

@[simp] theorem clearFlags_winen (v : Word) : (clearFlags v s).winen = s.winen := rfl
@[simp] theorem clearFlags_infmt (v : Word) : (clearFlags v s).infmt = s.infmt := rfl
@[simp] theorem clearFlags_ie (v : Word) : (clearFlags v s).ie = s.ie := rfl
@[simp] theorem clearFlags_n (v : Word) : (clearFlags v s).n = s.n := rfl
@[simp] theorem clearFlags_p (v : Word) : (clearFlags v s).p = s.p := rfl
@[simp] theorem clearFlags_cmd (v : Word) : (clearFlags v s).cmd = s.cmd := rfl
@[simp] theorem clearFlags_done (v : Word) : (clearFlags v s).done = (s.done && !v.getLsbD 1) := rfl
@[simp] theorem clearFlags_zero (v : Word) : (clearFlags v s).zero = (s.zero && !v.getLsbD 2) := rfl
@[simp] theorem clearFlags_degen (v : Word) : (clearFlags v s).degen = (s.degen && !v.getLsbD 3) := rfl
@[simp] theorem clearFlags_unstable (v : Word) : (clearFlags v s).unstable = (s.unstable && !v.getLsbD 4) := rfl
@[simp] theorem clearFlags_nonfinite (v : Word) : (clearFlags v s).nonfinite = (s.nonfinite && !v.getLsbD 5) := rfl
@[simp] theorem clearFlags_ecode (v : Word) : (clearFlags v s).ecode = s.ecode := rfl
@[simp] theorem clearFlags_eaddr (v : Word) : (clearFlags v s).eaddr = s.eaddr := rfl
@[simp] theorem clearFlags_ewr (v : Word) : (clearFlags v s).ewr = s.ewr := rfl
@[simp] theorem clearFlags_eovr (v : Word) : (clearFlags v s).eovr = s.eovr := rfl
@[simp] theorem clearFlags_nfAdd (v : Word) : (clearFlags v s).nfAdd = s.nfAdd := rfl
@[simp] theorem clearFlags_nfMul (v : Word) : (clearFlags v s).nfMul = s.nfMul := rfl
@[simp] theorem clearFlags_err (v : Word) : (clearFlags v s).err = s.err := rfl
@[simp] theorem clearFlags_mem (v : Word) : (clearFlags v s).mem = s.mem := rfl
@[simp] theorem clearFlags_pending (v : Word) : (clearFlags v s).pending = s.pending := rfl
@[simp] theorem clearFlags_program (v : Word) : (clearFlags v s).program = s.program := rfl
@[simp] theorem clearFlags_schedule (v : Word) : (clearFlags v s).schedule = s.schedule := rfl
@[simp] theorem clearFlags_pinHeld (v : Word) : (clearFlags v s).pinHeld = s.pinHeld := rfl
@[simp] theorem clearFlags_response (v : Word) : (clearFlags v s).response = s.response := rfl

@[simp] theorem noteNonfinite_winen (b : Bool) : (noteNonfinite b s).winen = s.winen := rfl
@[simp] theorem noteNonfinite_infmt (b : Bool) : (noteNonfinite b s).infmt = s.infmt := rfl
@[simp] theorem noteNonfinite_ie (b : Bool) : (noteNonfinite b s).ie = s.ie := rfl
@[simp] theorem noteNonfinite_n (b : Bool) : (noteNonfinite b s).n = s.n := rfl
@[simp] theorem noteNonfinite_p (b : Bool) : (noteNonfinite b s).p = s.p := rfl
@[simp] theorem noteNonfinite_cmd (b : Bool) : (noteNonfinite b s).cmd = s.cmd := rfl
@[simp] theorem noteNonfinite_done (b : Bool) : (noteNonfinite b s).done = s.done := rfl
@[simp] theorem noteNonfinite_zero (b : Bool) : (noteNonfinite b s).zero = s.zero := rfl
@[simp] theorem noteNonfinite_degen (b : Bool) : (noteNonfinite b s).degen = s.degen := rfl
@[simp] theorem noteNonfinite_unstable (b : Bool) : (noteNonfinite b s).unstable = s.unstable := rfl
@[simp] theorem noteNonfinite_nonfinite (b : Bool) : (noteNonfinite b s).nonfinite = (s.nonfinite || b) := rfl
@[simp] theorem noteNonfinite_ecode (b : Bool) : (noteNonfinite b s).ecode = s.ecode := rfl
@[simp] theorem noteNonfinite_eaddr (b : Bool) : (noteNonfinite b s).eaddr = s.eaddr := rfl
@[simp] theorem noteNonfinite_ewr (b : Bool) : (noteNonfinite b s).ewr = s.ewr := rfl
@[simp] theorem noteNonfinite_eovr (b : Bool) : (noteNonfinite b s).eovr = s.eovr := rfl
@[simp] theorem noteNonfinite_nfAdd (b : Bool) : (noteNonfinite b s).nfAdd = s.nfAdd := rfl
@[simp] theorem noteNonfinite_nfMul (b : Bool) : (noteNonfinite b s).nfMul = s.nfMul := rfl
@[simp] theorem noteNonfinite_err (b : Bool) : (noteNonfinite b s).err = s.err := rfl
@[simp] theorem noteNonfinite_mem (b : Bool) : (noteNonfinite b s).mem = s.mem := rfl
@[simp] theorem noteNonfinite_pending (b : Bool) : (noteNonfinite b s).pending = s.pending := rfl
@[simp] theorem noteNonfinite_program (b : Bool) : (noteNonfinite b s).program = s.program := rfl
@[simp] theorem noteNonfinite_schedule (b : Bool) : (noteNonfinite b s).schedule = s.schedule := rfl
@[simp] theorem noteNonfinite_pinHeld (b : Bool) : (noteNonfinite b s).pinHeld = s.pinHeld := rfl
@[simp] theorem noteNonfinite_response (b : Bool) : (noteNonfinite b s).response = s.response := rfl

@[simp] theorem noteRecursion_winen (z d u f : Bool) : (noteRecursion z d u f s).winen = s.winen := rfl
@[simp] theorem noteRecursion_infmt (z d u f : Bool) : (noteRecursion z d u f s).infmt = s.infmt := rfl
@[simp] theorem noteRecursion_ie (z d u f : Bool) : (noteRecursion z d u f s).ie = s.ie := rfl
@[simp] theorem noteRecursion_n (z d u f : Bool) : (noteRecursion z d u f s).n = s.n := rfl
@[simp] theorem noteRecursion_p (z d u f : Bool) : (noteRecursion z d u f s).p = s.p := rfl
@[simp] theorem noteRecursion_cmd (z d u f : Bool) : (noteRecursion z d u f s).cmd = s.cmd := rfl
@[simp] theorem noteRecursion_done (z d u f : Bool) : (noteRecursion z d u f s).done = s.done := rfl
@[simp] theorem noteRecursion_zero (z d u f : Bool) : (noteRecursion z d u f s).zero = (s.zero || z) := rfl
@[simp] theorem noteRecursion_degen (z d u f : Bool) : (noteRecursion z d u f s).degen = (s.degen || d) := rfl
@[simp] theorem noteRecursion_unstable (z d u f : Bool) : (noteRecursion z d u f s).unstable = (s.unstable || u) := rfl
@[simp] theorem noteRecursion_nonfinite (z d u f : Bool) : (noteRecursion z d u f s).nonfinite = (s.nonfinite || f) := rfl
@[simp] theorem noteRecursion_ecode (z d u f : Bool) : (noteRecursion z d u f s).ecode = s.ecode := rfl
@[simp] theorem noteRecursion_eaddr (z d u f : Bool) : (noteRecursion z d u f s).eaddr = s.eaddr := rfl
@[simp] theorem noteRecursion_ewr (z d u f : Bool) : (noteRecursion z d u f s).ewr = s.ewr := rfl
@[simp] theorem noteRecursion_eovr (z d u f : Bool) : (noteRecursion z d u f s).eovr = s.eovr := rfl
@[simp] theorem noteRecursion_nfAdd (z d u f : Bool) : (noteRecursion z d u f s).nfAdd = s.nfAdd := rfl
@[simp] theorem noteRecursion_nfMul (z d u f : Bool) : (noteRecursion z d u f s).nfMul = s.nfMul := rfl
@[simp] theorem noteRecursion_err (z d u f : Bool) : (noteRecursion z d u f s).err = s.err := rfl
@[simp] theorem noteRecursion_mem (z d u f : Bool) : (noteRecursion z d u f s).mem = s.mem := rfl
@[simp] theorem noteRecursion_pending (z d u f : Bool) : (noteRecursion z d u f s).pending = s.pending := rfl
@[simp] theorem noteRecursion_program (z d u f : Bool) : (noteRecursion z d u f s).program = s.program := rfl
@[simp] theorem noteRecursion_schedule (z d u f : Bool) : (noteRecursion z d u f s).schedule = s.schedule := rfl
@[simp] theorem noteRecursion_pinHeld (z d u f : Bool) : (noteRecursion z d u f s).pinHeld = s.pinHeld := rfl
@[simp] theorem noteRecursion_response (z d u f : Bool) : (noteRecursion z d u f s).response = s.response := rfl

@[simp] theorem writeCtrl_winen (v : Word) : (writeCtrl v s).winen = v.getLsbD 0 := rfl
@[simp] theorem writeCtrl_infmt (v : Word) : (writeCtrl v s).infmt = v.getLsbD 1 := rfl
@[simp] theorem writeCtrl_ie (v : Word) : (writeCtrl v s).ie = v.getLsbD 2 := rfl
@[simp] theorem writeCtrl_n (v : Word) : (writeCtrl v s).n = s.n := rfl
@[simp] theorem writeCtrl_p (v : Word) : (writeCtrl v s).p = s.p := rfl
@[simp] theorem writeCtrl_cmd (v : Word) : (writeCtrl v s).cmd = s.cmd := rfl
@[simp] theorem writeCtrl_done (v : Word) : (writeCtrl v s).done = s.done := rfl
@[simp] theorem writeCtrl_zero (v : Word) : (writeCtrl v s).zero = s.zero := rfl
@[simp] theorem writeCtrl_degen (v : Word) : (writeCtrl v s).degen = s.degen := rfl
@[simp] theorem writeCtrl_unstable (v : Word) : (writeCtrl v s).unstable = s.unstable := rfl
@[simp] theorem writeCtrl_nonfinite (v : Word) : (writeCtrl v s).nonfinite = s.nonfinite := rfl
@[simp] theorem writeCtrl_ecode (v : Word) : (writeCtrl v s).ecode = s.ecode := rfl
@[simp] theorem writeCtrl_eaddr (v : Word) : (writeCtrl v s).eaddr = s.eaddr := rfl
@[simp] theorem writeCtrl_ewr (v : Word) : (writeCtrl v s).ewr = s.ewr := rfl
@[simp] theorem writeCtrl_eovr (v : Word) : (writeCtrl v s).eovr = s.eovr := rfl
@[simp] theorem writeCtrl_nfAdd (v : Word) : (writeCtrl v s).nfAdd = s.nfAdd := rfl
@[simp] theorem writeCtrl_nfMul (v : Word) : (writeCtrl v s).nfMul = s.nfMul := rfl
@[simp] theorem writeCtrl_err (v : Word) : (writeCtrl v s).err = s.err := rfl
@[simp] theorem writeCtrl_mem (v : Word) : (writeCtrl v s).mem = s.mem := rfl
@[simp] theorem writeCtrl_pending (v : Word) : (writeCtrl v s).pending = s.pending := rfl
@[simp] theorem writeCtrl_program (v : Word) : (writeCtrl v s).program = s.program := rfl
@[simp] theorem writeCtrl_schedule (v : Word) : (writeCtrl v s).schedule = s.schedule := rfl
@[simp] theorem writeCtrl_pinHeld (v : Word) : (writeCtrl v s).pinHeld = s.pinHeld := rfl
@[simp] theorem writeCtrl_response (v : Word) : (writeCtrl v s).response = s.response := rfl

@[simp] theorem writeCfgN_winen (v : Word) : (writeCfgN v s).winen = s.winen := rfl
@[simp] theorem writeCfgN_infmt (v : Word) : (writeCfgN v s).infmt = s.infmt := rfl
@[simp] theorem writeCfgN_ie (v : Word) : (writeCfgN v s).ie = s.ie := rfl
@[simp] theorem writeCfgN_n (v : Word) : (writeCfgN v s).n = v.toNat := rfl
@[simp] theorem writeCfgN_p (v : Word) : (writeCfgN v s).p = s.p := rfl
@[simp] theorem writeCfgN_cmd (v : Word) : (writeCfgN v s).cmd = s.cmd := rfl
@[simp] theorem writeCfgN_done (v : Word) : (writeCfgN v s).done = s.done := rfl
@[simp] theorem writeCfgN_zero (v : Word) : (writeCfgN v s).zero = s.zero := rfl
@[simp] theorem writeCfgN_degen (v : Word) : (writeCfgN v s).degen = s.degen := rfl
@[simp] theorem writeCfgN_unstable (v : Word) : (writeCfgN v s).unstable = s.unstable := rfl
@[simp] theorem writeCfgN_nonfinite (v : Word) : (writeCfgN v s).nonfinite = s.nonfinite := rfl
@[simp] theorem writeCfgN_ecode (v : Word) : (writeCfgN v s).ecode = s.ecode := rfl
@[simp] theorem writeCfgN_eaddr (v : Word) : (writeCfgN v s).eaddr = s.eaddr := rfl
@[simp] theorem writeCfgN_ewr (v : Word) : (writeCfgN v s).ewr = s.ewr := rfl
@[simp] theorem writeCfgN_eovr (v : Word) : (writeCfgN v s).eovr = s.eovr := rfl
@[simp] theorem writeCfgN_nfAdd (v : Word) : (writeCfgN v s).nfAdd = s.nfAdd := rfl
@[simp] theorem writeCfgN_nfMul (v : Word) : (writeCfgN v s).nfMul = s.nfMul := rfl
@[simp] theorem writeCfgN_err (v : Word) : (writeCfgN v s).err = s.err := rfl
@[simp] theorem writeCfgN_mem (v : Word) : (writeCfgN v s).mem = s.mem := rfl
@[simp] theorem writeCfgN_pending (v : Word) : (writeCfgN v s).pending = s.pending := rfl
@[simp] theorem writeCfgN_program (v : Word) : (writeCfgN v s).program = s.program := rfl
@[simp] theorem writeCfgN_schedule (v : Word) : (writeCfgN v s).schedule = s.schedule := rfl
@[simp] theorem writeCfgN_pinHeld (v : Word) : (writeCfgN v s).pinHeld = s.pinHeld := rfl
@[simp] theorem writeCfgN_response (v : Word) : (writeCfgN v s).response = s.response := rfl

@[simp] theorem writeCfgP_winen (v : Word) : (writeCfgP v s).winen = s.winen := rfl
@[simp] theorem writeCfgP_infmt (v : Word) : (writeCfgP v s).infmt = s.infmt := rfl
@[simp] theorem writeCfgP_ie (v : Word) : (writeCfgP v s).ie = s.ie := rfl
@[simp] theorem writeCfgP_n (v : Word) : (writeCfgP v s).n = s.n := rfl
@[simp] theorem writeCfgP_p (v : Word) : (writeCfgP v s).p = v.toNat := rfl
@[simp] theorem writeCfgP_cmd (v : Word) : (writeCfgP v s).cmd = s.cmd := rfl
@[simp] theorem writeCfgP_done (v : Word) : (writeCfgP v s).done = s.done := rfl
@[simp] theorem writeCfgP_zero (v : Word) : (writeCfgP v s).zero = s.zero := rfl
@[simp] theorem writeCfgP_degen (v : Word) : (writeCfgP v s).degen = s.degen := rfl
@[simp] theorem writeCfgP_unstable (v : Word) : (writeCfgP v s).unstable = s.unstable := rfl
@[simp] theorem writeCfgP_nonfinite (v : Word) : (writeCfgP v s).nonfinite = s.nonfinite := rfl
@[simp] theorem writeCfgP_ecode (v : Word) : (writeCfgP v s).ecode = s.ecode := rfl
@[simp] theorem writeCfgP_eaddr (v : Word) : (writeCfgP v s).eaddr = s.eaddr := rfl
@[simp] theorem writeCfgP_ewr (v : Word) : (writeCfgP v s).ewr = s.ewr := rfl
@[simp] theorem writeCfgP_eovr (v : Word) : (writeCfgP v s).eovr = s.eovr := rfl
@[simp] theorem writeCfgP_nfAdd (v : Word) : (writeCfgP v s).nfAdd = s.nfAdd := rfl
@[simp] theorem writeCfgP_nfMul (v : Word) : (writeCfgP v s).nfMul = s.nfMul := rfl
@[simp] theorem writeCfgP_err (v : Word) : (writeCfgP v s).err = s.err := rfl
@[simp] theorem writeCfgP_mem (v : Word) : (writeCfgP v s).mem = s.mem := rfl
@[simp] theorem writeCfgP_pending (v : Word) : (writeCfgP v s).pending = s.pending := rfl
@[simp] theorem writeCfgP_program (v : Word) : (writeCfgP v s).program = s.program := rfl
@[simp] theorem writeCfgP_schedule (v : Word) : (writeCfgP v s).schedule = s.schedule := rfl
@[simp] theorem writeCfgP_pinHeld (v : Word) : (writeCfgP v s).pinHeld = s.pinHeld := rfl
@[simp] theorem writeCfgP_response (v : Word) : (writeCfgP v s).response = s.response := rfl

@[simp] theorem writeNfAdd_winen (v : Word) : (writeNfAdd v s).winen = s.winen := rfl
@[simp] theorem writeNfAdd_infmt (v : Word) : (writeNfAdd v s).infmt = s.infmt := rfl
@[simp] theorem writeNfAdd_ie (v : Word) : (writeNfAdd v s).ie = s.ie := rfl
@[simp] theorem writeNfAdd_n (v : Word) : (writeNfAdd v s).n = s.n := rfl
@[simp] theorem writeNfAdd_p (v : Word) : (writeNfAdd v s).p = s.p := rfl
@[simp] theorem writeNfAdd_cmd (v : Word) : (writeNfAdd v s).cmd = s.cmd := rfl
@[simp] theorem writeNfAdd_done (v : Word) : (writeNfAdd v s).done = s.done := rfl
@[simp] theorem writeNfAdd_zero (v : Word) : (writeNfAdd v s).zero = s.zero := rfl
@[simp] theorem writeNfAdd_degen (v : Word) : (writeNfAdd v s).degen = s.degen := rfl
@[simp] theorem writeNfAdd_unstable (v : Word) : (writeNfAdd v s).unstable = s.unstable := rfl
@[simp] theorem writeNfAdd_nonfinite (v : Word) : (writeNfAdd v s).nonfinite = s.nonfinite := rfl
@[simp] theorem writeNfAdd_ecode (v : Word) : (writeNfAdd v s).ecode = s.ecode := rfl
@[simp] theorem writeNfAdd_eaddr (v : Word) : (writeNfAdd v s).eaddr = s.eaddr := rfl
@[simp] theorem writeNfAdd_ewr (v : Word) : (writeNfAdd v s).ewr = s.ewr := rfl
@[simp] theorem writeNfAdd_eovr (v : Word) : (writeNfAdd v s).eovr = s.eovr := rfl
@[simp] theorem writeNfAdd_nfAdd (v : Word) : (writeNfAdd v s).nfAdd = v := rfl
@[simp] theorem writeNfAdd_nfMul (v : Word) : (writeNfAdd v s).nfMul = s.nfMul := rfl
@[simp] theorem writeNfAdd_err (v : Word) : (writeNfAdd v s).err = s.err := rfl
@[simp] theorem writeNfAdd_mem (v : Word) : (writeNfAdd v s).mem = s.mem := rfl
@[simp] theorem writeNfAdd_pending (v : Word) : (writeNfAdd v s).pending = s.pending := rfl
@[simp] theorem writeNfAdd_program (v : Word) : (writeNfAdd v s).program = s.program := rfl
@[simp] theorem writeNfAdd_schedule (v : Word) : (writeNfAdd v s).schedule = s.schedule := rfl
@[simp] theorem writeNfAdd_pinHeld (v : Word) : (writeNfAdd v s).pinHeld = s.pinHeld := rfl
@[simp] theorem writeNfAdd_response (v : Word) : (writeNfAdd v s).response = s.response := rfl

@[simp] theorem writeNfMul_winen (v : Word) : (writeNfMul v s).winen = s.winen := rfl
@[simp] theorem writeNfMul_infmt (v : Word) : (writeNfMul v s).infmt = s.infmt := rfl
@[simp] theorem writeNfMul_ie (v : Word) : (writeNfMul v s).ie = s.ie := rfl
@[simp] theorem writeNfMul_n (v : Word) : (writeNfMul v s).n = s.n := rfl
@[simp] theorem writeNfMul_p (v : Word) : (writeNfMul v s).p = s.p := rfl
@[simp] theorem writeNfMul_cmd (v : Word) : (writeNfMul v s).cmd = s.cmd := rfl
@[simp] theorem writeNfMul_done (v : Word) : (writeNfMul v s).done = s.done := rfl
@[simp] theorem writeNfMul_zero (v : Word) : (writeNfMul v s).zero = s.zero := rfl
@[simp] theorem writeNfMul_degen (v : Word) : (writeNfMul v s).degen = s.degen := rfl
@[simp] theorem writeNfMul_unstable (v : Word) : (writeNfMul v s).unstable = s.unstable := rfl
@[simp] theorem writeNfMul_nonfinite (v : Word) : (writeNfMul v s).nonfinite = s.nonfinite := rfl
@[simp] theorem writeNfMul_ecode (v : Word) : (writeNfMul v s).ecode = s.ecode := rfl
@[simp] theorem writeNfMul_eaddr (v : Word) : (writeNfMul v s).eaddr = s.eaddr := rfl
@[simp] theorem writeNfMul_ewr (v : Word) : (writeNfMul v s).ewr = s.ewr := rfl
@[simp] theorem writeNfMul_eovr (v : Word) : (writeNfMul v s).eovr = s.eovr := rfl
@[simp] theorem writeNfMul_nfAdd (v : Word) : (writeNfMul v s).nfAdd = s.nfAdd := rfl
@[simp] theorem writeNfMul_nfMul (v : Word) : (writeNfMul v s).nfMul = v := rfl
@[simp] theorem writeNfMul_err (v : Word) : (writeNfMul v s).err = s.err := rfl
@[simp] theorem writeNfMul_mem (v : Word) : (writeNfMul v s).mem = s.mem := rfl
@[simp] theorem writeNfMul_pending (v : Word) : (writeNfMul v s).pending = s.pending := rfl
@[simp] theorem writeNfMul_program (v : Word) : (writeNfMul v s).program = s.program := rfl
@[simp] theorem writeNfMul_schedule (v : Word) : (writeNfMul v s).schedule = s.schedule := rfl
@[simp] theorem writeNfMul_pinHeld (v : Word) : (writeNfMul v s).pinHeld = s.pinHeld := rfl
@[simp] theorem writeNfMul_response (v : Word) : (writeNfMul v s).response = s.response := rfl

end Sys2Proof.Machine
end

