-- ==== Sys2Proof/Laws/Access.lean ====
section
/-! SUPPORT. What the map, the access check and the host accesses can do, said once. -/

namespace Sys2Proof.Machine

/-! ### The register map -/

theorem registerAt_sound {a : Nat} {l : Loc} (h : registerAt a = some l) : locOffset l = a ∧ locExists l = true := by
  unfold registerAt at h
  repeat' split at h
  all_goals first
    | (cases h; subst_vars; exact ⟨rfl, rfl⟩)
    | cases h

theorem inArray_iff {base count a : Nat} : inArray base count a = true ↔ base ≤ a ∧ a < base + 4 * count := by
  simp [inArray]

theorem arrayEntryAt_sound {a : Nat} {l : Loc} (ha : a % 4 = 0) (h : arrayEntryAt a = some l) :
    locOffset l = a ∧ locExists l = true := by
  unfold arrayEntryAt at h
  simp only [inArray_iff, acBase, lagwBase, lpcBase, rcBase, xBase, winBase, xwBase, Config.pMax, Config.nMax] at h
  repeat' split at h
  all_goals first
    | (cases h
       simp only [locOffset, locExists, acBase, lagwBase, lpcBase, rcBase, xBase, winBase, xwBase, Config.pMax,
         Config.nMax, decide_eq_true_eq]
       omega)
    | cases h

/-- The location found at an offset exists and lies there (spec/10_state.md R21). -/
theorem locate_sound {a : Nat} {l : Loc} (h : locate a = some l) : locOffset l = a ∧ locExists l = true := by
  unfold locate at h
  split at h
  · cases h
  · next ha =>
    split at h
    · next hr => cases h; exact registerAt_sound hr
    · exact arrayEntryAt_sound (by omega) h

/-- The cells of an entry of an array are array cells. -/
theorem arrayCell_of_loc {l : Loc} (hl : locExists l = true) (hs : acBase ≤ locOffset l) {a : Nat}
    (h1 : locOffset l ≤ a) (h2 : a < locOffset l + 4) : arrayCell a = true := by
  unfold arrayCell
  simp only [Bool.or_eq_true, inArray_iff]
  cases l <;>
    simp only [locOffset, locExists, acBase, lagwBase, lpcBase, rcBase, xBase, winBase, xwBase, Config.pMax,
      Config.nMax, decide_eq_true_eq] at * <;> omega

/-! ### The access check -/

/-- What an accepted access has passed (spec/60_exceptions.md R146). -/
theorem accessCheck_ok {we : Bool} {size : BitVec 2} {addr : Nat} {data : Word} {s : State} {l : Loc}
    (h : accessCheck we size addr data s = .ok l) :
    size = 2 ∧ addr % 4 = 0 ∧ locate addr = some l ∧ (busy s = true → allowedWhileBusy we l = true)
      ∧ (we = true → readOnly l = false ∧ outOfRange l data = false ∧ illegalCommand l data = false) := by
  unfold accessCheck at h
  split at h
  · cases h
  next hsz =>
  split at h
  · cases h
  next hal =>
  split at h
  · cases h
  next l' hl =>
  repeat' split at h
  all_goals try cases h
  all_goals (simp only [Bool.and_eq_true, Bool.not_eq_true', not_and, Bool.not_eq_false, Bool.not_eq_true, ne_eq] at *)
  refine ⟨by simpa using hsz, by simpa using hal, hl, by assumption, fun hw => ⟨by tauto, by tauto, by tauto⟩⟩

/-- An access is never rejected with the code that means no error (spec/60_exceptions.md R143). -/
theorem accessCheck_error_ne_none {we : Bool} {size : BitVec 2} {addr : Nat} {data : Word} {s : State} {c : ErrCode}
    (h : accessCheck we size addr data s = .error c) : c ≠ .none := by
  unfold accessCheck at h
  repeat' split at h
  all_goals (cases h; try decide)

/-- The two outcomes of a read access. -/
theorem hostRead_cases (size : BitVec 2) (addr : Nat) (s : State) :
    (∃ c, accessCheck false size addr 0 s = .error c ∧ hostRead size addr s = raiseError c addr false s)
      ∨ ∃ l, accessCheck false size addr 0 s = .ok l
          ∧ hostRead size addr s = respond { err := false, rdata := readValue l s } s := by
  unfold hostRead
  cases h : accessCheck false size addr 0 s with
  | error c => exact .inl ⟨c, rfl, rfl⟩
  | ok l => exact .inr ⟨l, rfl, rfl⟩

/-- The two outcomes of a write access. -/
theorem hostWrite_cases (size : BitVec 2) (addr : Nat) (data : Word) (s : State) :
    (∃ c, accessCheck true size addr data s = .error c ∧ hostWrite size addr data s = raiseError c addr true s)
      ∨ ∃ l, accessCheck true size addr data s = .ok l
          ∧ hostWrite size addr data s = respond { err := false, rdata := 0 } (writeLoc l data s) := by
  unfold hostWrite
  cases h : accessCheck true size addr data s with
  | error c => exact .inl ⟨c, rfl, rfl⟩
  | ok l => exact .inr ⟨l, rfl, rfl⟩

/-- The command instructions: the rows of the table in the CMD format. -/
abbrev isCommand (i : Instr) : Prop := stagesOf i ≠ []

/-- The word of a command decodes to it (spec/30_encoding.md R74). -/
theorem decodeCmd_commandWord {i : Instr} (h : isCommand i) : decodeCmd (commandWord i) = .instr i := by
  cases i <;> first | exact absurd rfl h | decide

/-- A command issued while none is in progress is accepted (spec/40_host_access.md R94, R95). -/
theorem hostWrite_command {i : Instr} {s : State} (h : isCommand i) (hb : busy s = false) :
    hostWrite 2 0x010 (commandWord i) s
      = respond { err := false, rdata := 0 } (acceptCommand (commandWord i) (stagesOf i) s) := by
  have hl : locate 0x010 = some .cmd := by decide
  have hc : accessCheck true 2 0x010 (commandWord i) s = .ok .cmd := by
    simp [accessCheck, hl, hb, readOnly, outOfRange, illegalCommand, decodeCmd_commandWord h]
  unfold hostWrite
  rw [hc]
  simp only [writeLoc, writeCmd, stagesOfWord, decodeCmd_commandWord h]

/-- A command issued while another is in progress is turned away (spec/40_host_access.md R94, spec/60_exceptions.md R146). -/
theorem hostWrite_command_busy {i : Instr} {s : State} (hb : busy s = true) :
    hostWrite 2 0x010 (commandWord i) s = raiseError .busy 0x010 true s := by
  have hl : locate 0x010 = some .cmd := by decide
  have hc : accessCheck true 2 0x010 (commandWord i) s = .error .busy := by
    simp [accessCheck, hl, hb, allowedWhileBusy]
  unfold hostWrite
  rw [hc]

end Sys2Proof.Machine
end

