-- ==== Sys2Proof/Laws/Engine.lean ====
section
/-! SUPPORT. What an engine step and a command can do, said once, and the sizes of what the stages store. -/

namespace Sys2Proof.Machine

/-! ### Sizes of the results -/

@[simp] theorem padTo_length (len : Nat) (xs : List Number) : (padTo len xs).length = len := by
  simp [padTo]; omega

@[simp] theorem updatePair_length (q : Number) (i : Nat) (a : List Number) (j : Nat) :
    (updatePair q i a j).length = a.length := by simp [updatePair]

@[simp] theorem updateMiddle_length (q : Number) (i : Nat) (a : List Number) : (updateMiddle q i a).length = a.length := by
  unfold updateMiddle; split <;> simp

theorem foldl_updatePair_length (q : Number) (i : Nat) (js : List Nat) (a : List Number) :
    (js.foldl (updatePair q i) a).length = a.length := by
  induction js generalizing a with
  | nil => rfl
  | cons j js ih => rw [List.foldl_cons, ih, updatePair_length]

@[simp] theorem updateCoefficients_length (q : Number) (i : Nat) (a : List Number) :
    (updateCoefficients q i a).length = a.length := by
  simp [updateCoefficients, foldl_updatePair_length]

theorem recursionLoop_length (r : List Number) (todo i : Nat) (c : Recursion) :
    (recursionLoop r todo i c).a.length = c.a.length ∧ (recursionLoop r todo i c).k.length = c.k.length := by
  induction todo generalizing i c with
  | zero => exact ⟨rfl, rfl⟩
  | succ todo ih =>
    unfold recursionLoop
    split
    · exact ⟨rfl, rfl⟩
    · obtain ⟨h1, h2⟩ := ih (i + 1) (iterateWith (reflection r c.a c.e i) i c)
      rw [h1, h2]
      simp [iterateWith]

/-- A recursion leaves P_MAX coefficients and P_MAX reflection coefficients (spec/42_levinson.md R116). -/
theorem recursion_length (p : Nat) (r : List Number) :
    (recursion p r).a.length = Config.pMax ∧ (recursion p r).k.length = Config.pMax := by
  unfold recursion
  split
  · simp [recursionStart, clearedOutputs]
  · split
    · simp [recursionStart, clearedOutputs]
    · obtain ⟨h1, h2⟩ := recursionLoop_length r p 0 (recursionStart (r.getD 0 F32.zero))
      rw [h1, h2]
      simp [recursionStart, clearedOutputs]

/-! ### Engine steps -/

/-- What an engine step can do (spec/43_control_ops.md R136). -/
theorem engineStep_cases (s : State) :
    (s.pending = [] ∧ engineStep s = s)
      ∨ (∃ rest, s.pending = .softreset :: rest ∧ engineStep s = stageSoftreset s)
      ∨ ∃ st rest, s.pending = st :: rest ∧ st ≠ .softreset ∧ engineStep s = completeStage rest (performStage st s) := by
  unfold engineStep
  cases h : s.pending with
  | nil => exact .inl ⟨rfl, rfl⟩
  | cons st rest =>
    by_cases hst : st = .softreset
    · exact .inr (.inl ⟨rest, by rw [hst], by simp [hst]⟩)
    · exact .inr (.inr ⟨st, rest, rfl, hst, by simp [hst]⟩)

/-- An engine step whose next stage is not SOFTRESET. -/
theorem engineStep_stage {s : State} {st : Stage} {rest : List Stage} (h : s.pending = st :: rest) (hst : st ≠ .softreset) :
    engineStep s = completeStage rest (performStage st s) := by
  unfold engineStep
  rw [h]
  simp [hst]

/-! ### Issuing a command -/

/-- A command issued while none is in progress is accepted, and no stage is performed (spec/40_host_access.md R95). -/
theorem issueCommand_idle {i : Instr} {s : State} (h : isCommand i) (hb : busy s = false) :
    issueCommand i s = .next (respond { err := false, rdata := 0 } (acceptCommand (commandWord i) (stagesOf i) s)) := by
  rw [issueCommand, hostWrite_command h hb]

/-- A command issued while another is in progress: the BUSY error (spec/40_host_access.md R94). -/
theorem issueCommand_busy {i : Instr} {s : State} (hb : busy s = true) :
    issueCommand i s = .next (raiseError .busy 0x010 true s) := by
  rw [issueCommand, hostWrite_command_busy hb]

/-! ### The stages and `pending` -/

@[simp] theorem busy_eq_false {s : State} : busy s = false ↔ s.pending = [] := by simp [busy]

@[simp] theorem busy_eq_true {s : State} : busy s = true ↔ s.pending ≠ [] := by simp [busy]

@[simp] theorem storeRecursion_pending (c : Recursion) (s : State) : (storeRecursion c s).pending = s.pending := rfl

/-- No stage but SOFTRESET touches `pending` (spec/10_state.md R40). -/
theorem performStage_pending {st : Stage} (h : st ≠ .softreset) (s : State) : (performStage st s).pending = s.pending := by
  cases st <;> first | exact absurd rfl h | simp [performStage, stageNop, stageWindow, stageAutocorr, stageCondition, stageRecurse]

/-- No stage but SOFTRESET touches DONE (spec/10_state.md R42). -/
theorem performStage_done {st : Stage} (h : st ≠ .softreset) (s : State) : (performStage st s).done = s.done := by
  cases st <;> first | exact absurd rfl h | rfl

/-- No stage but SOFTRESET touches ERRINFO (spec/20_memory.md R61). -/
theorem performStage_errInfo {st : Stage} (h : st ≠ .softreset) (s : State) :
    (performStage st s).ecode = s.ecode ∧ (performStage st s).eaddr = s.eaddr ∧ (performStage st s).ewr = s.ewr
      ∧ (performStage st s).eovr = s.eovr := by
  cases st <;> first | exact absurd rfl h | exact ⟨rfl, rfl, rfl, rfl⟩

end Sys2Proof.Machine
end

