-- ==== Sys2Proof/Laws/PerInstr.lean ====
section
/-! SUPPORT. Families of statements made per instruction. TableRow: the code word of a well-formed instruction lies in the
instruction's row of spec/opcode_table.json (its match on the bits of its mask), and in its format. -/

namespace Sys2Proof.Laws

/-- Bit 48, the one bit under a HOSTREQ row's mask 0x1000000000000, as the row's match has it. -/
def hostreqMatch : Instr → Bool
  | .regWrite _ _ _ => true
  | _ => false

/-- The match of a CMD row, under the mask 0xFFFFFFFF. -/
def cmdMatch : Instr → Word
  | .window => 0x00000001
  | .autocorr => 0x00000002
  | .condition => 0x00000003
  | .recurse => 0x00000004
  | .levinson => 0x00000005
  | .analyze => 0x00000006
  | .softreset => 0x00000007
  | _ => 0x00000000

/-- Whether the row is in the HOSTREQ format. -/
def isHostreqRow : Instr → Bool
  | .regRead _ _ => true
  | .regWrite _ _ _ => true
  | _ => false

def TableRow.Statement (i : Instr) : Prop :=
  i.wellFormed = true →
    match encode i with
    | .hostreq w => isHostreqRow i = true ∧ w.getLsbD 48 = hostreqMatch i
    | .cmd w => isHostreqRow i = false ∧ w &&& 0xFFFFFFFF = cmdMatch i

theorem packReq_bit48 (we : Bool) (size : BitVec 2) (addr : Nat) (data : Word) :
    (packReq we size addr data).getLsbD 48 = we := by
  unfold packReq
  rw [BitVec.getLsbD_append, BitVec.getLsbD_append, BitVec.getLsbD_append]
  cases we <;> simp

theorem TableRow.regRead (size : BitVec 2) (addr : Nat) : TableRow.Statement (.regRead size addr) :=
  fun _ => ⟨rfl, packReq_bit48 false size addr 0⟩

theorem TableRow.regWrite (size : BitVec 2) (addr : Nat) (data : Word) : TableRow.Statement (.regWrite size addr data) :=
  fun _ => ⟨rfl, packReq_bit48 true size addr data⟩

theorem TableRow.nop : TableRow.Statement .nop := fun _ => ⟨rfl, by decide⟩

theorem TableRow.window : TableRow.Statement .window := fun _ => ⟨rfl, by decide⟩

theorem TableRow.autocorr : TableRow.Statement .autocorr := fun _ => ⟨rfl, by decide⟩

theorem TableRow.condition : TableRow.Statement .condition := fun _ => ⟨rfl, by decide⟩

theorem TableRow.recurse : TableRow.Statement .recurse := fun _ => ⟨rfl, by decide⟩

theorem TableRow.levinson : TableRow.Statement .levinson := fun _ => ⟨rfl, by decide⟩

theorem TableRow.analyze : TableRow.Statement .analyze := fun _ => ⟨rfl, by decide⟩

theorem TableRow.softreset : TableRow.Statement .softreset := fun _ => ⟨rfl, by decide⟩

end Sys2Proof.Laws
end

