-- ==== Sys2Proof/Laws/Step.lean ====
section
/-! SUPPORT. What one step of the machine can do, said once: which activity it takes and what that activity is. -/

namespace Sys2Proof.Machine

/-- The surroundings of `s` replaced: what the choice of a turn may change before the turn's own effect. -/
def withSurroundings (s : State) (prog : List HostStmt) (sch : List Turn) : State :=
  { s with program := prog, schedule := sch }

/-- Every activity acts on the state as it is, its surroundings apart; only the pin changes the block. -/
theorem nextActivity_cases (s : State) :
    (∃ i prog sch, nextActivity s = .run i (withSurroundings s prog sch) ∧ s.pinHeld = false)
      ∨ (∃ sch, nextActivity s = .engine (withSurroundings s s.program sch) ∧ s.pinHeld = false ∧ s.pending ≠ [])
      ∨ (∃ sch, nextActivity s = .settled (withSurroundings s s.program sch))
      ∨ (∃ sch, nextActivity s = .settled (pinRise (withSurroundings s s.program sch)))
      ∨ (∃ sch, nextActivity s = .settled (pinFall (withSurroundings s s.program sch)))
      ∨ (nextActivity s = .stuck .accessWhileReset ∧ s.pinHeld = true ∧ s.program ≠ []) := by
  have host : ∀ sch, (∃ i prog, hostTurn (withSurroundings s s.program sch) = .run i (withSurroundings s prog sch)
        ∧ s.pinHeld = false)
      ∨ (hostTurn (withSurroundings s s.program sch) = .settled (withSurroundings s s.program sch))
      ∨ (hostTurn (withSurroundings s s.program sch) = .stuck .accessWhileReset ∧ s.pinHeld = true ∧ s.program ≠ []) := by
    intro sch
    unfold hostTurn withSurroundings
    cases hp : s.program with
    | nil => exact .inr (.inl rfl)
    | cons stmt rest =>
      cases hpin : s.pinHeld with
      | true => exact .inr (.inr ⟨by simp, rfl, by simp⟩)
      | false =>
        refine .inl ?_
        cases stmt with
        | code c => exact ⟨instrOf c, rest, by simp, rfl⟩
        | wait =>
          by_cases hb : s.pending = []
          · exact ⟨.regRead 2 0x014, rest, by simp [busy, hb], rfl⟩
          · exact ⟨.regRead 2 0x014, .wait :: rest, by simp [busy, hb], rfl⟩
  have engine : ∀ sch, (engineTurn (withSurroundings s s.program sch) = .engine (withSurroundings s s.program sch)
        ∧ s.pinHeld = false ∧ s.pending ≠ [])
      ∨ (engineTurn (withSurroundings s s.program sch) = .settled (withSurroundings s s.program sch)) := by
    intro sch
    unfold engineTurn
    split
    · exact .inr rfl
    · next h => simp [withSurroundings, busy] at h; exact .inl ⟨rfl, h.1, by simpa using h.2⟩
  unfold nextActivity
  cases hs : s.schedule with
  | nil =>
    have he : s = withSurroundings s s.program [] := by rw [← hs]; rfl
    unfold defaultTurn
    cases hpin : s.pinHeld with
    | true => exact .inr (.inr (.inl ⟨[], by simpa using he⟩))
    | false =>
      by_cases hb : busy s = true
      · rcases engine [] with ⟨h, h1, h2⟩ | h
        · rw [← he] at h; exact .inr (.inl ⟨[], by simp only [hb, if_true, Bool.false_eq_true, if_false, h, ← he], rfl, h2⟩)
        · rw [← he] at h; exact .inr (.inr (.inl ⟨[], by simp only [hb, if_true, Bool.false_eq_true, if_false, h, ← he]⟩))
      · rcases host [] with ⟨i, prog, h, h1⟩ | h | ⟨h, h1, h2⟩
        · rw [← he] at h; exact .inl ⟨i, prog, [], by simp only [hb, Bool.false_eq_true, if_false, h], rfl⟩
        · rw [← he] at h; exact .inr (.inr (.inl ⟨[], by simp only [hb, Bool.false_eq_true, if_false, h, ← he]⟩))
        · rw [hpin] at h1; cases h1
  | cons t sch =>
    have he : { s with schedule := sch } = withSurroundings s s.program sch := rfl
    simp only [he]
    cases t with
    | host =>
      rcases host sch with ⟨i, prog, h, h1⟩ | h | ⟨h, h1, h2⟩
      · exact .inl ⟨i, prog, sch, h, h1⟩
      · exact .inr (.inr (.inl ⟨sch, h⟩))
      · exact .inr (.inr (.inr (.inr (.inr ⟨h, h1, h2⟩))))
    | engine =>
      rcases engine sch with ⟨h, h1, h2⟩ | h
      · exact .inr (.inl ⟨sch, h, h1, h2⟩)
      · exact .inr (.inr (.inl ⟨sch, h⟩))
    | pinRise => exact .inr (.inr (.inr (.inl ⟨sch, rfl⟩)))
    | pinFall => exact .inr (.inr (.inr (.inr (.inl ⟨sch, rfl⟩))))

/-- The state a host access leaves. -/
theorem exec_regRead (size : BitVec 2) (addr : Nat) (s : State) : exec (.regRead size addr) s = .next (hostRead size addr s) := rfl

theorem exec_regWrite (size : BitVec 2) (addr : Nat) (data : Word) (s : State) :
    exec (.regWrite size addr data) s = .next (hostWrite size addr data s) := rfl

/-- A command's meaning is its issue. -/
theorem exec_command {i : Instr} (h : isCommand i) (s : State) : exec i s = issueCommand i s := by
  cases i <;> first | exact absurd rfl h | rfl

end Sys2Proof.Machine
end

