-- ==== Sys2Proof/Tests/Slice0.lean ====
section
/-! SUPPORT. The model's own tests. Expected words are the spec's own: its encodings (spec/30_encoding.md), its examples and its test
vectors (spec/95_test_vectors.md), named in each test's comment. -/

namespace Sys2Proof.Tests

open Sys2Proof.Machine Sys2Proof.Claim

/-- The state a step or a meaning leaves, the state itself where it stops. -/
def after (s : State) (o : Host.Outcome State Fault Refusal) : State :=
  match o with
  | .next t => t
  | .fault _ => s
  | .refused _ => s

/-- The state after the step that issues a code word. -/
def issued (c : CodeWord) (s : State) : State := after s (step (placeCode c s))

/-- The state after a command is issued by its word and the engine has taken its turns. -/
def ran (i : Instr) (s : State) : State :=
  Nat.iterate (fun t => after t (step t)) (stagesOf i).length (issued (encode i) s)

/-- The reset state with words in its arrays. -/
def withWords (base : Nat) (ws : List Word) (s : State) : State := { s with mem := s.mem.storeWords base ws }

/-- ANALYZE accepted, no stage performed (V-H20). -/
def busyState : State := issued (.hostreq 0x1801000000006) State.reset

/-- The lags [30, 20, 11] at order 2 (V-L1, V-F1). -/
def lags3 : State := withWords acBase [0x41F00000, 0x41A00000, 0x41300000] { State.reset with p := 2 }

/-! ### Well-formedness -/

theorem test_wf_read_refuses_offset_0x4000 : (Instr.regRead 2 0x4000).wellFormed = false := by decide
theorem test_wf_write_refuses_offset_0x4000 : (Instr.regWrite 2 0x4000 0).wellFormed = false := by decide
theorem test_wf_last_offset : (Instr.regRead 2 0x3FFF).wellFormed = true := by decide

/-! ### Decoding: words written out from R70, R72, R73 -/

/-- WE = 0, SIZE = 2, ADDR = 0x00C: V-H3. -/
theorem test_decode_regRead :
    decode (.hostreq 0b0_10_00000000001100_00000000000000000000000000000000) = .instr (.regRead 2 0x00C) := by decide
/-- WE = 1, SIZE = 1, ADDR = 0x014, WDATA = 0x3E: V-H6. -/
theorem test_decode_regWrite :
    decode (.hostreq 0b1_01_00000000010100_00000000000000000000000000111110) = .instr (.regWrite 1 0x014 0x3E) := by decide
theorem test_decode_nop : decode (.cmd 0b00000000000000000000000000000000) = .instr .nop := by decide
theorem test_decode_window : decode (.cmd 0b00000000000000000000000000000001) = .instr .window := by decide
theorem test_decode_autocorr : decode (.cmd 0b00000000000000000000000000000010) = .instr .autocorr := by decide
theorem test_decode_condition : decode (.cmd 0b00000000000000000000000000000011) = .instr .condition := by decide
theorem test_decode_recurse : decode (.cmd 0b00000000000000000000000000000100) = .instr .recurse := by decide
theorem test_decode_levinson : decode (.cmd 0b00000000000000000000000000000101) = .instr .levinson := by decide
theorem test_decode_analyze : decode (.cmd 0b00000000000000000000000000000110) = .instr .analyze := by decide
theorem test_decode_softreset : decode (.cmd 0b00000000000000000000000000000111) = .instr .softreset := by decide
theorem test_decode_op8_is_illegal : decode (.cmd 0x8) = .reject .illegalCmd := by decide
theorem test_decode_rsv_is_illegal : decode (.cmd 0x80000001) = .reject .illegalCmd := by decide
theorem test_decodeTableWord_rows :
    decodeTableWord 32 6 = some .analyze ∧ decodeTableWord 56 0x1801000000006 = some (.regWrite 2 0x010 6)
      ∧ decodeTableWord 56 0 = some (.regRead 0 0) ∧ decodeTableWord 32 8 = none := by decide
/-- `wr CMD, ANALYZE` is 0x1_8010_0000_0006 (R83). -/
theorem test_assemble_example : assemble (lineCmd .analyze) = 0x1801000000006 := by decide

/-! ### Instructions (spec/95_test_vectors.md) -/

/-- V-H3. -/
theorem test_read_cfgP :
    (issued (.hostreq 0x0800C00000000) State.reset).response = some { err := false, rdata := 0x0000000A } := by decide
/-- V-H10: AC[17] does not exist. -/
theorem test_read_above_pMax_is_unmapped : errInfoWord (issued (.hostreq 0x0814400000000) State.reset) = 0x01440003 := by decide
/-- V-H5. -/
theorem test_write_ctrl_keeps_three_bits : ctrlWord (issued (.hostreq 0x18004FFFFFFFF) State.reset) = 0x00000007 := by decide
/-- V-H26: MISALIGNED comes before BUSY. -/
theorem test_write_misaligned_while_busy : errInfoWord (issued (.hostreq 0x1800300000000) busyState) = 0x40030002 := by decide
/-- V-A4: with DEGEN = 1, NOP leaves STATUS = 2. -/
theorem test_nop_clears_flags : statusWord (ran .nop { State.reset with degen := true }) = 0x00000002 := by decide
/-- V-W5: the subnormal is kept: XW[0] = 8. -/
theorem test_window_keeps_subnormal :
    xwAt (ran .window (withWords xBase [0x00000064] { State.reset with n := 1, infmt := true })) 0 = 0x00000008 := by
  decide +kernel
/-- V-W3, the third sample: a negative 16-bit sample with garbage in its upper half, weighted. -/
theorem test_window_int16_weighted :
    xwAt (ran .window (withWords xBase [1, 0x7FFF, 0xFFFF8000] { State.reset with n := 3 })) 2 = 0xC524C9E2 := by
  decide +kernel
/-- V-C4: the order of the sum is seen in its rounding. -/
theorem test_autocorr_ascending_sum :
    acAt (ran .autocorr (withWords xwBase [0x45800000, 0x3F800000, 0x3F800000] { State.reset with n := 3, p := 1 })) 1
      = 0x45800800 := by decide +kernel
/-- V-C2: N = 1, the lags from 1 on are empty sums. -/
theorem test_autocorr_empty_lag :
    acAt (ran .autocorr (withWords xwBase [0x40400000, 0x40400000] { State.reset with n := 1, p := 2 })) 1 = 0 := by
  decide +kernel
/-- V-F1. -/
theorem test_condition_floor : acAt (ran .condition lags3) 0 = 0x42200419 := by decide +kernel
theorem test_condition_weight : acAt (ran .condition lags3) 2 = 0x412E9DA7 := by decide +kernel
/-- V-L1. -/
theorem test_recurse_second_order :
    lpcAt (ran .recurse lags3) 0 = 0xBF428F5D ∧ rcAt (ran .recurse lags3) 0 = 0xBF2AAAAB
      ∧ (ran .recurse lags3).err = 0x4182B851 := by decide +kernel
/-- V-L9: |k| > 1 sets UNSTABLE, and the negative error DEGEN. -/
theorem test_recurse_unstable_then_degenerate :
    statusWord (ran .recurse (withWords acBase [0x3F800000, 0x40000000, 0] { State.reset with p := 2 })) = 0x0000001A := by
  decide +kernel
/-- V-L11: LEVINSON with a neutral floor and lag window. -/
theorem test_levinson_neutral :
    lpcAt (ran .levinson (withWords lagwBase [0x3F800000, 0x3F800000, 0x3F800000]
      { lags3 with nfAdd := 0, nfMul := 0x3F800000 })) 1 = 0x3E0F5C2C := by decide +kernel
/-- spec/95_test_vectors.md Program 1: ANALYZE of [1, 2, 3, 4] at order 2. -/
theorem test_analyze_program1 :
    (ran .analyze (withWords lagwBase [0x3F800000, 0x3F800000, 0x3F800000] (withWords xBase [1, 2, 3, 4]
      { State.reset with winen := false, n := 4, p := 2, nfAdd := 0, nfMul := 0x3F800000 }))).err = 0x4182B851 := by
  decide +kernel
/-- V-H21: after acceptance STATUS reads 0x101. -/
theorem test_analyze_accepted_status : statusWord busyState = 0x00000101 := by decide
/-- V-A5. -/
theorem test_softreset_restores : (ran .softreset { State.reset with p := 4 }).p = 10
    ∧ statusWord (ran .softreset { State.reset with p := 4 }) = 0x00000002 := by decide

/-! ### Witnesses: states and operands that meet the hypotheses of the statements -/

theorem test_witness_DecodeEncodeAgree : (Instr.regWrite 3 0x3FFF 0xFFFFFFFF).wellFormed = true := by decide

theorem test_witness_EncodeDecodedRequest :
    reqWe 0x1FFFFFFFFFFFF = true ∧ reqWe 0x0FFFFFFFFFFFF = false := by decide

theorem test_witness_CommandWordDecoding :
    8 ≤ (0x8 : Word).toNat ∧ 8 ≤ (0xFFFFFFFF : Word).toNat ∧ State.reset.pending = [] := by decide

theorem test_witness_AssembleDisassembleAgree :
    reqWe 0x1FFFFFFFFFFFF = true ∧ reqWe 0x0BFFF00000000 = false ∧ reqData 0x0BFFF00000000 = 0 := by decide

theorem test_witness_RegisterMapExact :
    locate 0x140 = some (.ac 16) ∧ locate 0x144 = none ∧ locate 0x3FFC = some (.xw 1023) ∧ locate 0x024 = some .err
      ∧ locate 0x028 = none := by decide

/-- Each error of the check, and acceptance. -/
theorem test_witness_AccessCheckPriority :
    (3 : BitVec 2) ≠ 2 ∧ 0x003 % 4 ≠ 0 ∧ locate 0x1C4 = none ∧ busyState.pending ≠ [] ∧ locate 0x3FFC = some (.xw 1023)
      ∧ ¬(1 ≤ (1025 : Word).toNat ∧ (1025 : Word).toNat ≤ 1024) ∧ ¬(1 ≤ (17 : Word).toNat ∧ (17 : Word).toNat ≤ 16)
      ∧ decodeCmd 0x8 = .reject .illegalCmd ∧ locate 0x1C0 = some (.lagw 16) := by decide

theorem test_witness_RejectedAccessChangesOnlyErrInfo :
    accessCheck false 2 0x1C4 0 State.reset = .error .unmapped ∧ accessCheck true 2 0x3000 0 State.reset = .error .readonly :=
  ⟨rfl, rfl⟩

theorem test_witness_BusyAdmitsOnlyTwoReads : busyState.pending ≠ [] ∧ ¬((2 : BitVec 2) = 2 ∧ (0x010 = 0x014 ∨ 0x010 = 0x018))
    ∧ ¬((1 : BitVec 2) = 2 ∧ (0x014 = 0x014 ∨ 0x014 = 0x018)) := by decide

/-- An idle block, and one whose ERRINFO holds the highest code. -/
theorem test_witness_ReadValuePerLocation :
    State.reset.pending = [] ∧ errInfoWord { State.reset with ecode := .illegalCmd } = 0x00000007 ∧ 16 ≤ 16 ∧ 15 < 16 ∧ 1023 < 1024 := by decide

/-- Also for WriteStatusClearsNamedFlags, WriteErrInfoClearsIt, SoftresetRestoresTheResetState, SoftresetAgainstThePin. -/
theorem test_witness_WriteCtrlSetsThreeBits : State.reset.pending = [] ∧ busyState.pending ≠ [] := by decide

theorem test_witness_WriteConfigChecksRange :
    State.reset.pending = [] ∧ (1 ≤ (1 : Word).toNat ∧ (1 : Word).toNat ≤ 16) ∧ (1 ≤ (16 : Word).toNat ∧ (16 : Word).toNat ≤ 16)
      ∧ ¬(1 ≤ (17 : Word).toNat ∧ (17 : Word).toNat ≤ 16) ∧ ¬(1 ≤ (0 : Word).toNat ∧ (0 : Word).toNat ≤ 16)
      ∧ (1 ≤ (1024 : Word).toNat ∧ (1024 : Word).toNat ≤ 1024) ∧ ¬(1 ≤ (1025 : Word).toNat ∧ (1025 : Word).toNat ≤ 1024)
      ∧ ¬(1 ≤ (0 : Word).toNat ∧ (0 : Word).toNat ≤ 1024) := by decide

theorem test_witness_WriteStatusClearsNamedFlags :
    { State.reset with done := true, degen := true }.pending = [] ∧ busyState.pending ≠ [] := by decide

theorem test_witness_WriteErrInfoClearsIt :
    { State.reset with ecode := .unmapped }.pending = [] ∧ busyState.pending ≠ [] := by decide

theorem test_witness_AcceptanceStartsTheCommand :
    { State.reset with done := true }.pending = [] ∧ decodeCmd 0x7 = .instr .softreset := by decide

theorem test_witness_WriteArrayEntryStoresIt :
    State.reset.pending = [] ∧ locExists (.ac 16) = true ∧ locExists (.lagw 16) = true ∧ locExists (.x 1023) = true
      ∧ locExists (.win 1023) = true := by decide

theorem test_witness_WriteFloorConstantsStoresThem : State.reset.pending = [] := by decide

/-- An accepted write of each kind of location. -/
theorem test_witness_ReadBackAfterWrite :
    [(Loc.ctrl, (0xFFFFFFFF : Word)), (.status, 0x3E), (.errinfo, 1), (.cmd, 7), (.cfgN, 1024), (.ac 16, 5)].all
      (fun x => match accessCheck true 2 (locOffset x.1) x.2 State.reset with | .ok l => l = x.1 | .error _ => false) = true := by
  decide

/-- `pending` set, shortened, emptied by SOFTRESET and by the pin. -/
theorem test_witness_PendingIsTheSequencer :
    step { State.reset with program := [.code (.hostreq 0x1801000000006)] }
        = .next (hostWrite 2 0x010 6 State.reset)
      ∧ step busyState = .next (engineStep busyState)
      ∧ step { busyState with schedule := [.pinRise] } = .next (pinRise busyState)
      ∧ State.reset.pending = [] ∧ busyState.pending = .window :: [.autocorr, .condition, .recurse]
      ∧ { State.reset with pending := [.softreset] }.pending = .softreset :: [] := by
  refine ⟨rfl, rfl, rfl, rfl, rfl, rfl⟩

theorem test_witness_IrqIsIeAndDone :
    { State.reset with ie := true, done := true }.pending = [] ∧ (0x2 : Word).getLsbD 1 = true ∧ (0x7 : Word).toNat < 8 := by
  decide

/-- Each of the three reset states, at a state with everything set. -/
theorem test_witness_ResetValues :
    (pinRise busyState = State.reset ∨ pinRise busyState = pinRise busyState ∨ pinRise busyState = stageSoftreset busyState)
      ∧ (State.reset = State.reset ∨ State.reset = pinRise busyState ∨ State.reset = stageSoftreset busyState)
      ∧ 16 ≤ 16 ∧ 15 < 16 ∧ 1023 < 1024 :=
  ⟨.inr (.inl rfl), .inl rfl, by decide, by decide, by decide⟩

/-- A host with a statement, and one without, while the pin is held. -/
def heldState : State := { State.reset with pinHeld := true, schedule := [.host], program := [.wait] }

theorem test_witness_ResetPinAbandonsEverything :
    { busyState with schedule := [.pinRise, .pinFall] }.schedule = .pinRise :: .pinFall :: []
      ∧ heldState.pinHeld = true ∧ heldState.schedule = .host :: [] ∧ heldState.program ≠ []
      ∧ { heldState with program := [] }.program = [] ∧ { heldState with schedule := [.engine] }.schedule = .engine :: []
      ∧ { heldState with schedule := [] }.schedule = [] := by decide

theorem test_witness_SoftresetAgainstThePin :
    { State.reset with p := 4 }.pending = [] ∧ busyState.pending ≠ []
      ∧ performStage .softreset busyState = performStage .softreset busyState ∧ pinRise busyState = pinRise busyState :=
  ⟨rfl, by decide, rfl, rfl⟩

theorem test_witness_StagesOnlySetFlags :
    Stage.nop ≠ .softreset ∧ Stage.condition ≠ .softreset ∧ Stage.condition ≠ .recurse
      ∧ { State.reset with zero := true, degen := true, unstable := true, nonfinite := true }.zero = true := by decide

/-- A recorded error kept, and one cleared by each of the three events. -/
theorem test_witness_FirstErrorIsKept :
    (let s := { busyState with ecode := ErrCode.busy, eovr := true };
      step s = .next (engineStep s) ∧ s.ecode ≠ .none)
      ∧ (let s := { State.reset with ecode := ErrCode.size, program := [.code (.hostreq 0x1801800000000)] };
        step s = .next (hostWrite 2 0x018 0 { s with program := [] }) ∧ s.ecode ≠ .none)
      ∧ (let s := { State.reset with ecode := ErrCode.size, pending := [.softreset] };
        step s = .next (engineStep s) ∧ s.ecode ≠ .none)
      ∧ (let s := { State.reset with ecode := ErrCode.size, schedule := [.pinRise] };
        step s = .next (pinRise { s with schedule := [] }) ∧ s.ecode ≠ .none) := by
  refine ⟨⟨rfl, by decide⟩, ⟨rfl, by decide⟩, ⟨rfl, by decide⟩, ⟨rfl, by decide⟩⟩

/-- The largest finite numbers, whose sum overflows, and two whose exact sum and difference are 0. -/
theorem test_witness_SumIsCorrectlyRounded :
    F32.isFinite 0x7F7FFFFF = true ∧ F32.isFinite 0x80000001 = true ∧ value 0x80000000 + value 0x80000000 = 0
      ∧ value 0x80000000 - value 0x00000000 = 0 ∧ F32.sign 0x80000000 = true ∧ F32.sign 0x00000000 = false := by
  have h1 : F32.expo (0x80000000#32) = 0 := by decide
  have h2 : F32.frac (0x80000000#32) = 0 := by decide
  have h3 : F32.frac (0x00000000#32) = 0 := by decide
  have h4 : F32.expo (0x00000000#32) = 0 := by decide
  have hn : value (0x80000000 : Number) = 0 := by
    rw [show (0x80000000 : Number) = 0x80000000#32 from rfl]; simp [value, h1, h2]
  have hp : value (0x00000000 : Number) = 0 := by
    rw [show (0x00000000 : Number) = 0x00000000#32 from rfl, value, if_pos h4, h3]; simp
  refine ⟨by decide, by decide, ?_, ?_, by decide, by decide⟩ <;> simp only [hn, hp] <;> norm_num

theorem test_witness_ProductIsCorrectlyRounded :
    F32.isFinite 0x7F7FFFFF = true ∧ F32.isFinite 0x00000001 = true := by decide

theorem test_witness_QuotientIsCorrectlyRounded :
    F32.isFinite 0x7F7FFFFF = true ∧ F32.isFinite 0x00000001 = true ∧ value 0x00000001 ≠ 0 := by
  refine ⟨by decide, by decide, ?_⟩
  have h1 : F32.expo (1#32) = 0 := by decide
  have h2 : F32.frac (1#32) = 1 := by decide
  rw [show (0x00000001 : Number) = 1#32 from rfl, value, if_pos h1, h2]
  positivity

theorem test_witness_SpecialOperands :
    F32.isNaN 0x7F800001 = true ∧ F32.isInf 0x7F800000 = true ∧ F32.isInf 0xFF800000 = true
      ∧ F32.sign 0x7F800000 ≠ F32.sign 0xFF800000 ∧ F32.isNaN 0x7F800000 = false
      ∧ F32.isZero 0x7F800000 = false ∧ F32.isZero 0x80000000 = true ∧ F32.isFinite 0x7F7FFFFF = true
      ∧ F32.isZero 0x7F7FFFFF = false := by decide

theorem test_witness_ComparisonsFollowTheValues :
    F32.isFinite 0x80000000 = true ∧ F32.isFinite 0x00000000 = true ∧ F32.isNaN 0xFFFFFFFF = true
      ∧ F32.isInf 0x7F800000 = true ∧ F32.isInf 0xFF800000 = true ∧ F32.isNaN 0x7F7FFFFF = false
      ∧ F32.isNaN 0xFF800000 = false := by decide

theorem test_witness_NeutralConditioning :
    F32.isNaN 0x80000000 = false ∧ F32.isNaN 0xFF800000 = false ∧ F32.isNaN 0x00000001 = false := by decide

theorem test_witness_NopCompletes : { State.reset with degen := true }.pending = [] := by decide

theorem test_witness_CommandWhileBusyIsTurnedAway : stagesOf .softreset ≠ [] ∧ busyState.pending ≠ [] := by decide

/-- N at both ends; a sample −0.0 under a negative weight and under an infinite one. -/
theorem test_witness_WindowWritesTheSignal :
    (let s := { State.reset with n := 1024 };
      s.pending = [] ∧ s.n ≤ 1024 ∧ 1023 < s.n)
      ∧ (let s := { State.reset with n := 1 };
        s.pending = [] ∧ s.n ≤ 1024 ∧ 0 < s.n ∧ s.n ≤ 1 ∧ 1023 < 1024)
      ∧ (let s := withWords winBase [0xBF800000, 0xFF800000]
          (withWords xBase [0x80000000, 0x80000000] { State.reset with n := 2, infmt := true });
        s.pending = [] ∧ s.n ≤ 1024 ∧ s.winen = true ∧ sample s 0 = 0x80000000 ∧ F32.isFinite (winAt s 0) = true
          ∧ sample s 1 = 0x80000000 ∧ F32.isFinite (winAt s 1) = false) := by decide

theorem test_witness_AutocorrWritesTheLags :
    (let s := { State.reset with n := 1024, p := 16 };
      s.pending = [] ∧ s.n ≤ 1024 ∧ s.p ≤ 16 ∧ 16 ≤ s.p)
      ∧ (let s := { State.reset with n := 1, p := 1 };
        s.pending = [] ∧ s.n ≤ 1 ∧ s.p < 2 ∧ 16 ≤ 16) := by decide

theorem test_witness_AutocorrLagZeroIsNotNegative :
    let s := withWords xwBase [0x7FC00000] { State.reset with n := 1 };
    s.pending = [] ∧ ∃ i, i < s.n ∧ F32.isNaN (xwAt s i) = true := ⟨rfl, 0, by decide, by decide⟩

theorem test_witness_AutocorrIgnoresNanPayloads :
    let s := withWords xwBase [0x7FC00000] { State.reset with n := 1 };
    let s' := withWords xwBase [0xFF800001] { State.reset with n := 1 };
    s.pending = [] ∧ s'.pending = [] ∧ s.n = s'.n ∧ s.p = s'.p ∧ ∀ i, i < s.n → SameNumber (xwAt s i) (xwAt s' i) := by
  decide

theorem test_witness_ConditionFloorsAndWeights :
    { State.reset with p := 16 }.pending = [] ∧ { State.reset with p := 16 }.p ≤ 16 ∧ 1 ≤ 16
      ∧ 16 ≤ { State.reset with p := 16 }.p := by decide

theorem test_witness_RecurseIsTheCopyForm :
    { State.reset with p := 16 }.pending = [] ∧ { State.reset with p := 16 }.p ≤ 16 ∧ 15 < 16 := by decide

/-- A lag that is not finite, at the last place; and a lag 0 of −0 with finite lags. -/
theorem test_witness_RecursePrechecks :
    (let s := withWords acBase [0x3F800000, 0x7F800000] { State.reset with p := 1 };
      s.p ≤ 16 ∧ F32.isFinite (acAt s s.p) = false)
      ∧ (let s := withWords acBase [0x80000000, 0x40A00000] { State.reset with p := 1 };
        s.p ≤ 16 ∧ (∀ m, m < s.p + 1 → F32.isFinite (acAt s m) = true) ∧ acAt s 0 = 0x80000000) := by decide

/-- States that differ above P and in the old coefficients. -/
theorem test_witness_RecurseOutputsDependOnLagsAlone :
    let s := withWords lpcBase [5, 6] { lags3 with p := 1 };
    let s' := withWords rcBase [7] { (withWords (acBase + 8) [0x7FC00000] lags3) with p := 1 };
    s.p ≤ 16 ∧ s.p = s'.p ∧ (∀ k, k < s.p + 1 → acAt s k = acAt s' k) ∧ s.p ≤ 15 ∧ s.zero = s'.zero := by
  decide

theorem test_witness_RecurseFlagsDescribeTheRun : lags3.pending = [] ∧ lags3.p ≤ 16 ∧ 1 < lags3.p := by decide

theorem test_witness_RecurseStopsOnNegativeEnergy :
    let s := withWords acBase [0xBF800000, 0x3F000000] { State.reset with p := 1 };
    s.pending = [] ∧ 1 ≤ s.p ∧ s.p ≤ 16 ∧ (∀ m, m < s.p + 1 → F32.isFinite (acAt s m) = true)
      ∧ F32.lt (acAt s 0) F32.zero = true := by decide

theorem test_witness_RecurseOfOrderOne :
    let s := withWords acBase [0x40000000, 0x3F800000] { State.reset with p := 1 };
    s.pending = [] ∧ s.p = 1 ∧ F32.isFinite (acAt s 0) = true ∧ F32.isFinite (acAt s 1) = true
      ∧ F32.lt F32.zero (acAt s 0) = true := by decide

theorem test_witness_InPlaceUpdateIsTheCopyForm : 15 < clearedOutputs.length ∧ 7 < clearedOutputs.length := by decide

/-- Also for AnalyzeTwiceGivesTheSameResults, LevinsonIsItsTwoStages and AnalyzeIsItsFourStages. -/
theorem test_witness_RecurseIsIdempotent : lags3.pending = [] ∧ lags3.mem.wf ∧ lags3.p ≤ 16 := by decide

theorem test_witness_WindowAndAutocorrAreIdempotent :
    lags3.pending = [] ∧ lags3.mem.wf ∧ lags3.n ≤ 1024 ∧ lags3.p ≤ 16 := by decide

theorem test_witness_LevinsonIsItsTwoStages : lags3.pending = [] := by decide

theorem test_witness_AnalyzeIsItsFourStages : lags3.pending = [] := by decide

theorem test_witness_AnalyzeTwiceGivesTheSameResults :
    lags3.pending = [] ∧ lags3.mem.wf ∧ lags3.n ≤ 1024 ∧ lags3.p ≤ 16 := by decide

theorem test_witness_SoftresetRestoresTheResetState : lags3.pending = [] ∧ busyState.pending ≠ [] := by decide

/-- A scheduled host turn, the default one, and an illegal command word. -/
theorem test_witness_StepRunsTheDecodedInstruction :
    (let s := placeCode (.hostreq 0x1800300000000) busyState;
      s.pinHeld = false ∧ s.program = .code (.hostreq 0x1800300000000) :: [] ∧ s.schedule = .host :: []
        ∧ decode (.hostreq 0x1800300000000) = .instr (.regWrite 2 0x003 0))
      ∧ (let s := { State.reset with program := [.code (.cmd 0x7)] };
        s.pinHeld = false ∧ s.program = .code (.cmd 0x7) :: [] ∧ s.schedule = [] ∧ s.pending = []
          ∧ decode (.cmd 0x7) = .instr .softreset)
      ∧ (let s := placeCode (.cmd 0x8) State.reset;
        s.pinHeld = false ∧ s.program = .code (.cmd 0x8) :: [] ∧ s.schedule = .host :: []
          ∧ decode (.cmd 0x8) = .reject .illegalCmd) := by decide

theorem test_witness_WaitPollsStatus :
    (let s := { busyState with program := [.wait], schedule := [.host] };
      s.pinHeld = false ∧ s.program = .wait :: [] ∧ s.schedule = .host :: [] ∧ s.pending ≠ [])
      ∧ (let s := { State.reset with program := [.wait], schedule := [.host] };
        s.pinHeld = false ∧ s.program = .wait :: [] ∧ s.schedule = .host :: [] ∧ s.pending = []) := by decide

theorem test_witness_EngineStepPerformsTheHead :
    (let s := { busyState with schedule := [.engine] };
      s.pinHeld = false ∧ s.schedule = .engine :: [] ∧ s.pending = .window :: [.autocorr, .condition, .recurse]
        ∧ Stage.window ≠ .softreset)
      ∧ { State.reset with schedule := [.engine], pending := [.softreset] }.pending = .softreset :: []
      ∧ { State.reset with schedule := [.engine] }.pending = [] := by decide

theorem test_witness_AcceptedCommandCompletes :
    busyState.pinHeld = false ∧ busyState.schedule = [] ∧ busyState.pending ≠ []
      ∧ busyState.pending <:+ stagesOfWord busyState.cmd ∧ 3 < busyState.pending.length
      ∧ { busyState with ie := true }.ie = true ∧ busyState.pending ≠ [.softreset] := by decide

/-- NOP issued both ways, and a host turn while ANALYZE is in progress. -/
theorem test_witness_CommandEqualsItsSteps :
    stagesOf .nop ≠ [] ∧ lags3.pending = [] ∧ lags3.pinHeld = false ∧ lags3.schedule = []
      ∧ (CodeWord.cmd 0x0 = encode .nop ∨ CodeWord.cmd 0x0 = .hostreq (packReq true 2 0x010 (commandWord .nop)))
      ∧ Completes .nop { lags3 with program := [] } (answered { lags3 with done := true })
      ∧ { busyState with schedule := [.host] }.pending ≠ []
      ∧ step { busyState with schedule := [.host] } = .next busyState :=
  ⟨by decide, rfl, rfl, rfl, .inl rfl, ⟨rfl, rfl⟩, by decide, rfl⟩

theorem test_witness_NothingStopsTheBlock : step heldState = .fault .accessWhileReset := rfl

/-- A state with an error recorded, flags set, cells listed and a command in progress. -/
def richState : State :=
  withWords xwBase [0x3F800000] { busyState with
    n := 1024, p := 16, ecode := .busy, eaddr := 0x3FFC, ewr := true, eovr := true, zero := true }

theorem test_witness_StepKeepsTheInvariant : richState.Inv ∧ step richState = .next (engineStep richState) :=
  ⟨by decide, rfl⟩

end Sys2Proof.Tests
end

section
/-! The engine and the step: what stops a step, and a command run to its end by the default turns. -/

namespace Sys2Proof.Machine

open Sys2Proof.Claim

/-! ### What stops a step -/

/-- Every instruction has a next state. -/
theorem exec_isNext (i : Instr) (s : State) : ∃ t, exec i s = .next t := by
  cases i <;> exact ⟨_, rfl⟩

theorem step_fault_iff_stuck (s : State) (f : Fault) : step s = .fault f ↔ nextActivity s = .stuck f := by
  unfold step
  cases nextActivity s with
  | run i s' =>
    obtain ⟨t, ht⟩ := exec_isNext i s'
    simp [ht]
  | engine s' => simp
  | settled s' => simp
  | stuck g => simp

theorem step_ne_refused (s : State) (r : Refusal) : step s ≠ .refused r := by
  unfold step
  cases nextActivity s with
  | run i s' =>
    obtain ⟨t, ht⟩ := exec_isNext i s'
    simp [ht]
  | engine s' => simp
  | settled s' => simp
  | stuck g => simp

/-- The host has no move exactly where it has a statement to issue while the pin is held (spec/70_reset_and_hazards.md R163). -/
theorem hostTurn_stuck_iff (s : State) (f : Fault) :
    hostTurn s = .stuck f ↔ f = .accessWhileReset ∧ s.pinHeld = true ∧ s.program ≠ [] := by
  unfold hostTurn
  cases s.program with
  | nil => simp
  | cons stmt rest =>
    cases s.pinHeld with
    | true => simp
    | false => cases stmt <;> simp

theorem engineTurn_ne_stuck (s : State) (f : Fault) : engineTurn s ≠ .stuck f := by
  unfold engineTurn
  split <;> simp

/-- The default order never gives the host a turn while the pin is held. -/
theorem defaultTurn_ne_stuck (s : State) (f : Fault) : defaultTurn s ≠ .stuck f := by
  unfold defaultTurn
  split
  · simp
  next hpin =>
    split
    · exact engineTurn_ne_stuck s f
    · rw [ne_eq, hostTurn_stuck_iff]
      exact fun ⟨_, hheld, _⟩ => hpin hheld

theorem nextActivity_stuck_iff (s : State) (f : Fault) :
    nextActivity s = .stuck f
      ↔ f = .accessWhileReset ∧ s.pinHeld = true ∧ s.program ≠ [] ∧ s.schedule.head? = some .host := by
  unfold nextActivity
  cases s.schedule with
  | nil => simp [defaultTurn_ne_stuck]
  | cons turn rest =>
    cases turn with
    | host => simp [takeTurn, hostTurn_stuck_iff]
    | engine => simp [takeTurn, engineTurn_ne_stuck]
    | pinRise => simp [takeTurn]
    | pinFall => simp [takeTurn]

/-- Settles O58: the only activity that stops a step is the host's turn while the pin is held. -/
theorem nothingStopsTheBlock : Obligations.NothingStopsTheBlock := fun s =>
  ⟨step_ne_refused s, fun f => (step_fault_iff_stuck s f).trans (nextActivity_stuck_iff s f)⟩

/-! ### A command run by the default turns -/

/-- The engine's default turn: it moves whenever it has work (spec/00_scope.md R14). -/
theorem step_default_engine {s : State} (hpin : s.pinHeld = false) (hsch : s.schedule = []) (hpend : s.pending ≠ []) :
    step s = .next (engineStep s) := by
  have hact : nextActivity s = .engine s := by
    simp [nextActivity, hsch, defaultTurn, hpin, busy_eq_true.mpr hpend, engineTurn]
  simp only [step, hact]

/-- The host's default turn, taken while the engine is idle (spec/00_scope.md R14). -/
theorem step_default_host {s : State} {c : CodeWord} {rest : List HostStmt} (hpin : s.pinHeld = false)
    (hsch : s.schedule = []) (hpend : s.pending = []) (hprog : s.program = .code c :: rest) :
    step s = exec (instrOf c) { s with program := rest } := by
  have hact : nextActivity s = .run (instrOf c) { s with program := rest } := by
    simp [nextActivity, hsch, defaultTurn, hpin, busy_eq_false.mpr hpend, hostTurn, hprog]
  simp only [step, hact]

/-- A run whose first step goes on. -/
theorem core_run_succ {k : Nat} {s s' : State} (h : step s = .next s') :
    Host.Core.run core (k + 1) s = Host.Core.run core k s' := by
  have hstep : core.step s = .next s' := h
  simp only [Host.Core.run, hstep]

@[simp] theorem performStage_pinHeld (st : Stage) (s : State) : (performStage st s).pinHeld = s.pinHeld := by
  cases st <;> rfl

@[simp] theorem performStage_schedule (st : Stage) (s : State) : (performStage st s).schedule = s.schedule := by
  cases st <;> rfl

/-- No stage touches the pin or the schedule, SOFTRESET included (log entry 9). -/
theorem engineStep_surroundings (s : State) :
    (engineStep s).pinHeld = s.pinHeld ∧ (engineStep s).schedule = s.schedule := by
  obtain ⟨-, h⟩ | ⟨rest, -, h⟩ | ⟨st, rest, -, -, h⟩ := engineStep_cases s
  · simp [h]
  · simp [h, stageSoftreset, resetBlock]
  · simp [h, completeStage]

/-- The pending lists of commands: SOFTRESET comes alone, every other stage without it (spec/30_encoding.md R73). -/
def SoftresetAlone (stages : List Stage) : Prop := stages = [.softreset] ∨ .softreset ∉ stages

theorem softresetAlone_stagesOf (i : Instr) : SoftresetAlone (stagesOf i) := by
  cases i <;> simp [SoftresetAlone, stagesOf]

theorem SoftresetAlone.tail {stages : List Stage} (h : SoftresetAlone stages) : SoftresetAlone stages.tail := by
  obtain rfl | h := h
  · exact .inr (by simp)
  · exact .inr fun hmem => h (List.mem_of_mem_tail hmem)

/-- An engine step drops the head of `pending` (spec/43_control_ops.md R136). -/
theorem engineStep_pending {s : State} (h : SoftresetAlone s.pending) : (engineStep s).pending = s.pending.tail := by
  obtain ⟨hp, he⟩ | ⟨rest, hp, he⟩ | ⟨st, rest, hp, -, he⟩ := engineStep_cases s
  · simp [he, hp]
  · rw [SoftresetAlone, hp] at h
    have hrest : rest = [] := by simpa using h
    simp [he, hp, hrest, stageSoftreset, resetBlock, State.reset]
  · simp [he, hp, completeStage]

/-- Left to the default order, a block with work takes engine steps until the work is done (spec/43_control_ops.md R137). -/
theorem run_engineSteps {k : Nat} {s : State} (hpin : s.pinHeld = false) (hsch : s.schedule = [])
    (halone : SoftresetAlone s.pending) (hk : k ≤ s.pending.length) :
    Host.Core.run core k s = .next (engineStep^[k] s) := by
  induction k generalizing s with
  | zero => rfl
  | succ k ih =>
    have hpend : s.pending ≠ [] := List.ne_nil_of_length_pos (by omega)
    obtain ⟨hpin', hsch'⟩ := engineStep_surroundings s
    have htail := engineStep_pending halone
    rw [core_run_succ (step_default_engine hpin hsch hpend), Function.iterate_succ_apply]
    exact ih (hpin'.trans hpin) (hsch'.trans hsch) (htail ▸ halone.tail) (by rw [htail, List.length_tail]; omega)

/-! ### The two ways of issuing a command -/

theorem encode_command {i : Instr} (h : isCommand i) : encode i = .cmd (commandWord i) := by
  cases i with
  | regRead size addr => exact absurd rfl h
  | regWrite size addr data => exact absurd rfl h
  | nop | window | autocorr | condition | recurse | levinson | analyze | softreset => rfl

/-- The host's CMD write of a command's word, as a request word (spec/30_encoding.md R83). -/
theorem decodeReq_cmdWrite {i : Instr} (h : isCommand i) :
    decodeReq (packReq true 2 0x010 (commandWord i)) = .regWrite 2 0x010 (commandWord i) := by
  cases i with
  | regRead size addr => exact absurd rfl h
  | regWrite size addr data => exact absurd rfl h
  | nop | window | autocorr | condition | recurse | levinson | analyze | softreset => decide

/-- Both code words that issue a command have its meaning (log entry 2). -/
theorem exec_instrOf_issue {i : Instr} {c : CodeWord} (h : isCommand i)
    (hc : c = encode i ∨ c = .hostreq (packReq true 2 0x010 (commandWord i))) (s : State) :
    exec (instrOf c) s = exec i s := by
  obtain rfl | rfl := hc
  · simp only [encode_command h, instrOf, decode, decodeCmd_commandWord h]
  · simp only [instrOf, decode, decodeReq_cmdWrite h]
    rw [exec_regWrite, exec_command h, issueCommand]

/-! ### A host turn while a command is in progress -/

/-- `t` is `s` but for ERRINFO and the response. -/
def OnlyErrInfoAndResponseDiffer (s t : State) : Prop :=
  t = { s with response := t.response, ecode := t.ecode, eaddr := t.eaddr, ewr := t.ewr, eovr := t.eovr }

theorem onlyErrInfoAndResponseDiffer_respond (r : Response) (s : State) : OnlyErrInfoAndResponseDiffer s (respond r s) := rfl

theorem onlyErrInfoAndResponseDiffer_raiseError (c : ErrCode) (addr : Nat) (we : Bool) (s : State) :
    OnlyErrInfoAndResponseDiffer s (raiseError c addr we s) := by
  unfold raiseError
  split <;> rfl

theorem hostRead_frame (size : BitVec 2) (addr : Nat) (s : State) :
    OnlyErrInfoAndResponseDiffer s (hostRead size addr s) := by
  obtain ⟨c, -, h⟩ | ⟨l, -, h⟩ := hostRead_cases size addr s <;> rw [h]
  · exact onlyErrInfoAndResponseDiffer_raiseError ..
  · exact onlyErrInfoAndResponseDiffer_respond ..

/-- A write while a command is in progress is rejected (spec/10_state.md R41). -/
theorem hostWrite_frame_of_busy {size : BitVec 2} {addr : Nat} {data : Word} {s : State} (hb : busy s = true) :
    OnlyErrInfoAndResponseDiffer s (hostWrite size addr data s) := by
  obtain ⟨c, -, h⟩ | ⟨l, hok, -⟩ := hostWrite_cases size addr data s
  · rw [h]
    exact onlyErrInfoAndResponseDiffer_raiseError ..
  · obtain ⟨-, -, -, hallowed, -⟩ := accessCheck_ok hok
    simp [allowedWhileBusy] at hallowed
    exact absurd hallowed (busy_eq_true.mp hb)

/-- No instruction of the host disturbs a command in progress (spec/20_memory.md R61). -/
theorem exec_frame_of_busy {i : Instr} {s t : State} (hb : busy s = true) (h : exec i s = .next t) :
    OnlyErrInfoAndResponseDiffer s t := by
  by_cases hi : isCommand i
  · rw [exec_command hi, issueCommand_busy hb] at h
    cases h
    exact onlyErrInfoAndResponseDiffer_raiseError ..
  · cases i with
    | regRead size addr => cases h; exact hostRead_frame size addr s
    | regWrite size addr data => cases h; exact hostWrite_frame_of_busy hb
    | nop | window | autocorr | condition | recurse | levinson | analyze | softreset => simp [stagesOf] at hi

/-- What the host's turn can do: nothing, a statement issued, or no move (spec/70_reset_and_hazards.md R163). -/
theorem hostTurn_cases (s : State) :
    hostTurn s = .settled s ∨ hostTurn s = .stuck .accessWhileReset
      ∨ ∃ i prog, hostTurn s = .run i { s with program := prog } := by
  unfold hostTurn
  cases hprog : s.program with
  | nil => exact .inl rfl
  | cons stmt rest =>
    dsimp only
    split
    · exact .inr (.inl rfl)
    · refine .inr (.inr ?_)
      cases stmt with
      | code c => exact ⟨instrOf c, rest, rfl⟩
      | wait =>
        by_cases hb : busy s = true
        · exact ⟨.regRead 2 0x014, s.program, by simp [hb]⟩
        · exact ⟨.regRead 2 0x014, rest, by simp [hb]⟩

/-- A host turn while a command is in progress leaves the command alone (spec/20_memory.md R61). -/
theorem step_host_frame_of_busy {s t : State} {ts : List Turn} (hpend : s.pending ≠ [])
    (hsch : s.schedule = .host :: ts) (h : step s = .next t) :
    ∃ prog, OnlyErrInfoAndResponseDiffer { s with schedule := ts, program := prog } t := by
  have hact : nextActivity s = hostTurn { s with schedule := ts } := by
    simp only [nextActivity, hsch, takeTurn]
  unfold step at h
  rw [hact] at h
  obtain hturn | hturn | ⟨i, prog, hturn⟩ := hostTurn_cases { s with schedule := ts } <;> rw [hturn] at h
  · cases h
    exact ⟨s.program, rfl⟩
  · cases h
  · exact ⟨prog, exec_frame_of_busy (busy_eq_true.mpr hpend) h⟩

/-- Settles O57: the host's step accepts the command, then the default turns are the engine's, one per stage; between them a host
access is rejected or only read. -/
theorem commandEqualsItsSteps : Obligations.CommandEqualsItsSteps := by
  refine ⟨fun i s t rest c hi hpend hpin hsch hc hcompletes => ?_, fun s t ts hpend hsch hstep => ?_⟩
  · obtain ⟨haccept, rfl⟩ := hcompletes
    have hissue : step { s with program := .code c :: rest } = .next (accepted i { s with program := rest }) :=
      calc step { s with program := .code c :: rest }
        _ = exec (instrOf c) { s with program := rest } := step_default_host hpin hsch hpend rfl
        _ = exec i { s with program := rest } := exec_instrOf_issue hi hc _
        _ = .next (accepted i { s with program := rest }) := haccept
    rw [Nat.add_comm, core_run_succ hissue]
    exact run_engineSteps hpin hsch (softresetAlone_stagesOf i) le_rfl
  · obtain ⟨prog, hframe⟩ := step_host_frame_of_busy hpend hsch hstep
    rw [OnlyErrInfoAndResponseDiffer] at hframe
    rw [hframe]

end Sys2Proof.Machine
end

section
/-! The numbers: a binary32 word as its sign and magnitude, and its value in units of 2^-149. -/

namespace Sys2Proof.Machine

open Sys2Proof.Claim

/-! ### Sign and magnitude -/

/-- The sign bit and the magnitude are the whole word (spec/00_scope.md R10). -/
theorem F32.toNat_eq (x : Number) : x.toNat = (if F32.sign x then 2 ^ 31 else 0) + F32.mag x := by
  have hx : x.toNat < 2 ^ 32 := x.isLt
  simp only [F32.sign, F32.mag, BitVec.msb_eq_decide, decide_eq_true_eq]
  split <;> omega

theorem F32.eq_of_sign_of_mag {x y : Number} (hs : F32.sign x = F32.sign y) (hm : F32.mag x = F32.mag y) : x = y :=
  BitVec.eq_of_toNat_eq (by rw [F32.toNat_eq x, F32.toNat_eq y, hs, hm])

theorem F32.toNat_mod_two (x : Number) : x.toNat % 2 = F32.mag x % 2 := by
  rw [F32.toNat_eq x]
  split <;> omega

theorem F32.toNat_pack (neg : Bool) {m : Nat} (hm : m < 2 ^ 31) :
    (F32.pack neg m).toNat = (if neg then 2 ^ 31 else 0) + m := by
  rw [F32.pack, BitVec.toNat_ofNat]
  split <;> omega

theorem F32.mag_pack (neg : Bool) {m : Nat} (hm : m < 2 ^ 31) : F32.mag (F32.pack neg m) = m := by
  rw [F32.mag, F32.toNat_pack neg hm]
  split <;> omega

theorem F32.sign_pack (neg : Bool) {m : Nat} (hm : m < 2 ^ 31) : F32.sign (F32.pack neg m) = neg := by
  rw [F32.sign, BitVec.msb_eq_decide, F32.toNat_pack neg hm]
  cases neg
  · simpa using hm
  · simp

theorem F32.mag_eq_toNat_setWidth (x : Number) : F32.mag x = (x.setWidth 31).toNat := by
  rw [BitVec.toNat_setWidth, F32.mag]

@[simp] theorem F32.mag_neg (x : Number) : F32.mag (F32.neg x) = F32.mag x := by
  have hbits : (0x80000000#32).setWidth 31 = 0#31 := by decide
  simp only [F32.mag_eq_toNat_setWidth, F32.neg, BitVec.ofNat_eq_ofNat, BitVec.setWidth_xor, hbits, BitVec.xor_zero]

@[simp] theorem F32.sign_neg (x : Number) : F32.sign (F32.neg x) = !F32.sign x := by
  have hmsb : (0x80000000 : Word).msb = true := by decide
  simp only [F32.sign, F32.neg, BitVec.msb_xor, hmsb, Bool.xor_true]

@[simp] theorem F32.mag_abs (x : Number) : F32.mag (F32.abs x) = F32.mag x := by
  have hbits : (0x7FFFFFFF : Word).setWidth 31 = BitVec.allOnes 31 := by decide
  simp only [F32.mag_eq_toNat_setWidth, F32.abs, BitVec.setWidth_and, hbits, BitVec.and_allOnes]

@[simp] theorem F32.sign_abs (x : Number) : F32.sign (F32.abs x) = false := by
  have hmsb : (0x7FFFFFFF : Word).msb = false := by decide
  simp only [F32.sign, F32.abs, BitVec.msb_and, hmsb, Bool.and_false]

/-! ### The classes of words -/

theorem F32.isNaN_iff {x : Number} : F32.isNaN x = true ↔ F32.infMag < F32.mag x := by simp [F32.isNaN]

theorem F32.isInf_iff {x : Number} : F32.isInf x = true ↔ F32.mag x = F32.infMag := by simp [F32.isInf]

theorem F32.isFinite_iff {x : Number} : F32.isFinite x = true ↔ F32.mag x < F32.infMag := by simp [F32.isFinite]

theorem F32.isZero_iff {x : Number} : F32.isZero x = true ↔ F32.mag x = 0 := by simp [F32.isZero]

theorem F32.isNaN_of_isFinite {x : Number} (h : F32.isFinite x = true) : F32.isNaN x = false := by
  simp only [F32.isFinite, F32.isNaN, decide_eq_true_eq, decide_eq_false_iff_not] at *
  omega

theorem F32.isInf_of_isFinite {x : Number} (h : F32.isFinite x = true) : F32.isInf x = false := by
  simp only [F32.isFinite, F32.isInf, decide_eq_true_eq, decide_eq_false_iff_not] at *
  omega

theorem F32.isNaN_of_isInf {x : Number} (h : F32.isInf x = true) : F32.isNaN x = false := by
  simp only [F32.isInf, F32.isNaN, decide_eq_true_eq, decide_eq_false_iff_not] at *
  omega

theorem F32.isZero_of_isInf {x : Number} (h : F32.isInf x = true) : F32.isZero x = false := by
  rw [F32.isZero, F32.isInf_iff.mp h]
  rfl

theorem F32.isFinite_of_isZero {x : Number} (h : F32.isZero x = true) : F32.isFinite x = true := by
  rw [F32.isFinite, F32.isZero_iff.mp h]
  rfl

/-- A word that is neither infinite nor NaN is finite. -/
theorem F32.isFinite_of_not {x : Number} (hnan : F32.isNaN x = false) (hinf : F32.isInf x = false) :
    F32.isFinite x = true := by
  simp only [F32.isFinite, F32.isInf, F32.isNaN, decide_eq_true_eq, decide_eq_false_iff_not] at *
  omega

@[simp] theorem F32.isNaN_neg (x : Number) : F32.isNaN (F32.neg x) = F32.isNaN x := by simp [F32.isNaN]

@[simp] theorem F32.isInf_neg (x : Number) : F32.isInf (F32.neg x) = F32.isInf x := by simp [F32.isInf]

@[simp] theorem F32.isFinite_neg (x : Number) : F32.isFinite (F32.neg x) = F32.isFinite x := by simp [F32.isFinite]

/-- Whatever the draw, the word is a NaN (spec/00_scope.md R10). -/
@[simp] theorem F32.isNaN_nanOf (op : NumOp) (a b : Number) : F32.isNaN (F32.nanOf op a b) = true := by
  have hdraw := (Config.nanDraw op a b).2.isLt
  have hlt : F32.infMag + 1 + (Config.nanDraw op a b).2.val < 2 ^ 31 := by rw [F32.infMag]; omega
  rw [F32.isNaN_iff, F32.nanOf, F32.mag_pack _ hlt]
  omega

/-- The magnitude of infinity fits below the sign bit. -/
theorem F32.infMag_lt : F32.infMag < 2 ^ 31 := by decide

/-! ### Magnitudes in units of 2^-149 -/

/-- What `units` computes, on the magnitude encoding alone. -/
def F32.magUnits (m : Nat) : Nat := if m / 2 ^ 23 = 0 then m % 2 ^ 23 else (2 ^ 23 + m % 2 ^ 23) * 2 ^ (m / 2 ^ 23 - 1)

theorem F32.units_eq (x : Number) : F32.units x = F32.magUnits (F32.mag x) := by
  have hfrac : F32.frac x = F32.mag x % 2 ^ 23 := (Nat.mod_mod_of_dvd x.toNat (by norm_num)).symm
  rw [F32.units, F32.magUnits, F32.expo, hfrac]

theorem F32.magUnits_subnormal {k : Nat} (hk : k < 2 ^ 23) : F32.magUnits k = k := by
  have hdiv : k / 2 ^ 23 = 0 := Nat.div_eq_of_lt hk
  rw [F32.magUnits, if_pos hdiv, Nat.mod_eq_of_lt hk]

theorem F32.magUnits_normal {sh k : Nat} (hlow : 2 ^ 23 ≤ k) (hhigh : k < 2 ^ 24) :
    F32.magUnits (sh * 2 ^ 23 + k) = k * 2 ^ sh := by
  have hdiv : (sh * 2 ^ 23 + k) / 2 ^ 23 = sh + 1 := by omega
  have hmod : 2 ^ 23 + (sh * 2 ^ 23 + k) % 2 ^ 23 = k := by omega
  rw [F32.magUnits, hdiv, hmod, if_neg sh.succ_ne_zero, Nat.add_sub_cancel]

/-- `sh·2^23 + k` encodes `k·2^sh` for every significand of 24 bits, or fewer without a shift; `k = 2^24` carries into the exponent
field. -/
theorem F32.magUnits_significand {sh k : Nat} (hlow : sh = 0 ∨ 2 ^ 23 ≤ k) (hhigh : k ≤ 2 ^ 24) :
    F32.magUnits (sh * 2 ^ 23 + k) = k * 2 ^ sh := by
  obtain hk | hk | rfl : k < 2 ^ 23 ∨ (2 ^ 23 ≤ k ∧ k < 2 ^ 24) ∨ k = 2 ^ 24 := by omega
  · obtain rfl : sh = 0 := by omega
    rw [Nat.zero_mul, Nat.zero_add, F32.magUnits_subnormal hk, pow_zero, Nat.mul_one]
  · exact F32.magUnits_normal hk.1 hk.2
  · have hcarry : sh * 2 ^ 23 + 2 ^ 24 = (sh + 1) * 2 ^ 23 + 2 ^ 23 := by omega
    rw [hcarry, F32.magUnits_normal le_rfl (by norm_num), pow_succ 2 sh]
    omega

/-- Every magnitude encoding is a shift and a significand whose successor is one too. -/
theorem F32.exists_significand (m : Nat) : ∃ sh k, m = sh * 2 ^ 23 + k ∧ (sh = 0 ∨ 2 ^ 23 ≤ k) ∧ k < 2 ^ 24 := by
  by_cases h : m < 2 ^ 24
  · exact ⟨0, m, by omega, .inl rfl, h⟩
  · exact ⟨m / 2 ^ 23 - 1, 2 ^ 23 + m % 2 ^ 23, by omega, .inr (by omega), by omega⟩

/-- The encoding without its sign orders the magnitudes. -/
theorem F32.magUnits_strictMono : StrictMono F32.magUnits := by
  refine strictMono_nat_of_lt_succ fun m => ?_
  obtain ⟨sh, k, rfl, hlow, hhigh⟩ := F32.exists_significand m
  rw [F32.magUnits_significand hlow hhigh.le, Nat.add_assoc, F32.magUnits_significand (by omega) hhigh]
  exact Nat.mul_lt_mul_of_pos_right k.lt_succ_self (by positivity)

@[simp] theorem F32.magUnits_zero : F32.magUnits 0 = 0 := rfl

theorem F32.magUnits_eq_zero_iff {m : Nat} : F32.magUnits m = 0 ↔ m = 0 :=
  F32.magUnits_strictMono.injective.eq_iff' F32.magUnits_zero

/-- Every number of 24 bits or fewer, shifted, is a magnitude. -/
theorem F32.exists_magUnits_eq {k : Nat} (hk : k < 2 ^ 24) (e : Nat) : ∃ m, F32.magUnits m = k * 2 ^ e := by
  induction e generalizing k with
  | zero => exact ⟨0 * 2 ^ 23 + k, F32.magUnits_significand (.inl rfl) hk.le⟩
  | succ e ih =>
    by_cases hsmall : k < 2 ^ 23
    · obtain ⟨m, hm⟩ := ih (k := 2 * k) (by omega)
      exact ⟨m, by rw [hm]; ring⟩
    · exact ⟨(e + 1) * 2 ^ 23 + k, F32.magUnits_significand (.inr (by omega)) hk.le⟩

/-! ### The value of a word -/

/-- The factor of the sign bit. -/
def F32.signFactor (neg : Bool) : ℚ := if neg then -1 else 1

/-- The value of a word in units of 2^-149 (spec/00_scope.md R10). -/
theorem value_eq (x : Number) : value x = F32.signFactor (F32.sign x) * F32.magUnits (F32.mag x) * 2 ^ (-149 : ℤ) := by
  rw [← F32.units_eq, value, ← F32.signFactor, F32.units, mul_assoc]
  congr 1
  by_cases hsub : F32.expo x = 0
  · simp only [if_pos hsub]
  · obtain ⟨e, he⟩ := Nat.exists_eq_succ_of_ne_zero hsub
    have hexp : ((e + 1 : ℕ) : ℤ) - 150 = (e : ℤ) + -149 := by push_cast; ring
    rw [if_neg hsub, if_neg hsub, he, Nat.succ_eq_add_one, hexp, zpow_add₀ two_ne_zero, zpow_natCast, Nat.add_sub_cancel]
    push_cast
    ring

theorem F32.signedUnits_eq (x : Number) :
    (F32.signedUnits x : ℚ) = F32.signFactor (F32.sign x) * F32.magUnits (F32.mag x) := by
  rw [F32.signedUnits, F32.units_eq, F32.signFactor]
  split <;> push_cast <;> ring

theorem value_eq_signedUnits (x : Number) : value x = F32.signedUnits x * 2 ^ (-149 : ℤ) := by
  rw [value_eq, F32.signedUnits_eq]

theorem value_neg (x : Number) : value (F32.neg x) = -value x := by
  rw [value_eq, value_eq, F32.mag_neg, F32.sign_neg, F32.signFactor, F32.signFactor]
  cases F32.sign x <;> simp

theorem F32.abs_signFactor (neg : Bool) : |F32.signFactor neg| = 1 := by
  cases neg <;> simp [F32.signFactor]

theorem abs_value (x : Number) : |value x| = F32.magUnits (F32.mag x) * 2 ^ (-149 : ℤ) := by
  rw [value_eq, abs_mul, abs_mul, F32.abs_signFactor, one_mul, Nat.abs_cast, abs_of_pos (by positivity)]

theorem value_abs (x : Number) : value (F32.abs x) = |value x| := by
  rw [abs_value, value_eq, F32.mag_abs, F32.sign_abs, F32.signFactor]
  simp

theorem F32.isZero_iff_value {x : Number} : F32.isZero x = true ↔ value x = 0 := by
  have hpow : (2 : ℚ) ^ (-149 : ℤ) ≠ 0 := by positivity
  rw [F32.isZero_iff, ← F32.magUnits_eq_zero_iff, ← abs_eq_zero, abs_value, mul_eq_zero, or_iff_left hpow, Nat.cast_eq_zero]

end Sys2Proof.Machine
end

section
/-! Rounding: what `F32.round` gives is the correctly rounded number (spec/00_scope.md R10). -/

namespace Sys2Proof.Machine

open Sys2Proof.Claim

/-! ### Rounding a quotient to a whole number -/

/-- The quotient's significand: below 2^24, and at least 2^23 where digits are dropped. -/
theorem F32.shiftOf_spec (q : Nat) :
    (F32.shiftOf q = 0 ∨ 2 ^ 23 ≤ q / 2 ^ F32.shiftOf q) ∧ q / 2 ^ F32.shiftOf q < 2 ^ 24 := by
  unfold F32.shiftOf
  split
  next h => exact ⟨.inl rfl, by rwa [pow_zero, Nat.div_one]⟩
  next h =>
    have hq : q ≠ 0 := by omega
    have hlog : 24 ≤ q.log2 := (Nat.le_log2 hq).mpr (by omega)
    refine ⟨.inr ?_, ?_⟩
    · rw [Nat.le_div_iff_mul_le (by positivity), ← pow_add, show 23 + (q.log2 - 23) = q.log2 by omega]
      exact Nat.log2_self_le hq
    · rw [Nat.div_lt_iff_lt_mul (by positivity), ← pow_add, show 24 + (q.log2 - 23) = q.log2 + 1 by omega]
      exact Nat.lt_log2_self

/-- A quotient lies between its whole part and the next whole number. -/
theorem natDiv_le_div_lt (num : Nat) {den : Nat} (hden : 0 < den) :
    ((num / den : ℕ) : ℚ) ≤ num / den ∧ (num / den : ℚ) < (num / den : ℕ) + 1 := by
  rw [← Nat.floor_div_eq_div (K := ℚ)]
  exact ⟨Nat.floor_le (by positivity), Nat.lt_floor_add_one _⟩

/-- The two cases of rounding to nearest, ties to even. -/
theorem F32.nearestEven_cases (num : Nat) {den : Nat} (hden : 0 < den) :
    (F32.nearestEven num den = num / den ∧ 2 * (num / den : ℚ) ≤ 2 * (num / den : ℕ) + 1
        ∧ (2 * (num / den : ℚ) = 2 * (num / den : ℕ) + 1 → num / den % 2 = 0))
      ∨ (F32.nearestEven num den = num / den + 1 ∧ 2 * (num / den : ℕ) + 1 ≤ 2 * (num / den : ℚ)
        ∧ (2 * (num / den : ℚ) = 2 * (num / den : ℕ) + 1 → num / den % 2 = 1)) := by
  have hdenQ : (0 : ℚ) < den := by exact_mod_cast hden
  have hsplit : (num : ℚ) / den = (num / den : ℕ) + (num % den : ℕ) / den := by
    rw [div_eq_iff hdenQ.ne', add_mul, div_mul_cancel₀ _ hdenQ.ne']
    exact_mod_cast (Nat.div_add_mod' num den).symm
  have hle : 2 * (num / den : ℚ) ≤ 2 * (num / den : ℕ) + 1 ↔ 2 * (num % den) ≤ den := by
    rw [hsplit, mul_add, add_le_add_iff_left, ← mul_div_assoc, div_le_one hdenQ]
    norm_cast
  have hge : 2 * (num / den : ℕ) + 1 ≤ 2 * (num / den : ℚ) ↔ den ≤ 2 * (num % den) := by
    rw [hsplit, mul_add, add_le_add_iff_left, ← mul_div_assoc, one_le_div hdenQ]
    norm_cast
  have heq : 2 * (num / den : ℚ) = 2 * (num / den : ℕ) + 1 ↔ 2 * (num % den) = den := by
    rw [le_antisymm_iff, hle, hge, ← le_antisymm_iff]
  rw [hle, hge, heq]
  unfold F32.nearestEven
  split
  next h => exact .inr ⟨rfl, by omega, by omega⟩
  next h => exact .inl ⟨rfl, by omega, by omega⟩

/-! ### The nearest magnitude -/

/-- `r` is the one of the magnitudes `lo` and `lo + 1` around `x` that is nearest to it, the even one at a tie. -/
structure F32.IsNearest (x : ℚ) (lo r : Nat) : Prop where
  lower : F32.magUnits lo ≤ x
  upper : x < F32.magUnits (lo + 1)
  choice :
    (r = lo ∧ 2 * x ≤ F32.magUnits lo + F32.magUnits (lo + 1)
        ∧ (2 * x = F32.magUnits lo + F32.magUnits (lo + 1) → lo % 2 = 0))
      ∨ (r = lo + 1 ∧ F32.magUnits lo + F32.magUnits (lo + 1) ≤ 2 * x
        ∧ (2 * x = F32.magUnits lo + F32.magUnits (lo + 1) → lo % 2 = 1))

/-- The magnitude `roundMag` clamps to infinity. -/
def F32.unclampedMag (num den : Nat) : Nat :=
  F32.shiftOf (num / den) * 2 ^ 23 + F32.nearestEven num (den * 2 ^ F32.shiftOf (num / den))

theorem F32.roundMag_eq (num den : Nat) : F32.roundMag num den = min F32.infMag (F32.unclampedMag num den) := rfl

/-- A quotient between two whole numbers, scaled by the last digit's weight, is between two magnitudes. -/
theorem F32.exists_isNearest (num : Nat) {den : Nat} (hden : 0 < den) :
    ∃ lo, F32.IsNearest (num / den) lo (F32.unclampedMag num den) := by
  obtain ⟨hlow, hhigh⟩ := F32.shiftOf_spec (num / den)
  unfold F32.unclampedMag
  generalize F32.shiftOf (num / den) = sh at hlow hhigh ⊢
  rw [Nat.div_div_eq_div_mul] at hlow hhigh
  have hscaled : 0 < den * 2 ^ sh := by positivity
  obtain ⟨hfloor, hceil⟩ := natDiv_le_div_lt num hscaled
  have hround := F32.nearestEven_cases num hscaled
  have hx : (num / den : ℚ) = num / (den * 2 ^ sh : ℕ) * 2 ^ sh := by
    push_cast
    field_simp
  have hlo := F32.magUnits_significand hlow hhigh.le
  have hhi := F32.magUnits_significand (sh := sh) (k := num / (den * 2 ^ sh) + 1) (by omega) hhigh
  generalize num / (den * 2 ^ sh) = f at *
  generalize (num / (den * 2 ^ sh : ℕ) : ℚ) = y at *
  have hpow : (0 : ℚ) < 2 ^ sh := by positivity
  have hmid : (F32.magUnits (sh * 2 ^ 23 + f) : ℚ) + F32.magUnits (sh * 2 ^ 23 + f + 1) = (2 * f + 1) * 2 ^ sh := by
    rw [Nat.add_assoc, hlo, hhi]
    push_cast
    ring
  refine ⟨sh * 2 ^ 23 + f, ?_, ?_, ?_⟩
  · rw [hx, hlo]
    push_cast
    exact mul_le_mul_of_nonneg_right hfloor hpow.le
  · rw [hx, Nat.add_assoc, hhi]
    push_cast
    exact mul_lt_mul_of_pos_right hceil hpow
  · rw [hx, hmid, ← mul_assoc, mul_le_mul_iff_of_pos_right hpow, mul_le_mul_iff_of_pos_right hpow,
      mul_left_inj' hpow.ne']
    obtain ⟨hr, hhalf, htie⟩ | ⟨hr, hhalf, htie⟩ := hround
    · exact .inl ⟨by rw [hr], hhalf, fun h => by have := htie h; omega⟩
    · exact .inr ⟨by rw [hr, Nat.add_assoc], hhalf, fun h => by have := htie h; omega⟩

/-- Every magnitude lies at or below `lo`, or at or above `lo + 1`. -/
theorem F32.magUnits_le_or_le (lo m : Nat) :
    (m ≤ lo ∧ (F32.magUnits m : ℚ) ≤ F32.magUnits lo) ∨ (lo + 1 ≤ m ∧ (F32.magUnits (lo + 1) : ℚ) ≤ F32.magUnits m) := by
  obtain h | h := Nat.lt_or_ge lo m
  · exact .inr ⟨h, by exact_mod_cast F32.magUnits_strictMono.monotone h⟩
  · exact .inl ⟨h, by exact_mod_cast F32.magUnits_strictMono.monotone h⟩

/-- The distance of a magnitude from a number between `lo` and `lo + 1`. -/
theorem F32.IsNearest.abs_sub_cases {x : ℚ} {lo r : Nat} (h : F32.IsNearest x lo r) (m : Nat) :
    (m ≤ lo ∧ |(F32.magUnits m : ℚ) - x| = x - F32.magUnits m ∧ (F32.magUnits m : ℚ) ≤ F32.magUnits lo)
      ∨ (lo + 1 ≤ m ∧ |(F32.magUnits m : ℚ) - x| = F32.magUnits m - x
        ∧ (F32.magUnits (lo + 1) : ℚ) ≤ F32.magUnits m) := by
  have hlower := h.lower
  have hupper := h.upper
  obtain ⟨hm, hg⟩ | ⟨hm, hg⟩ := F32.magUnits_le_or_le lo m
  · exact .inl ⟨hm, by rw [abs_sub_comm, abs_of_nonneg (by linarith)], hg⟩
  · exact .inr ⟨hm, abs_of_nonneg (by linarith), hg⟩

theorem F32.eq_of_magUnits_eq {m n : Nat} (h : (F32.magUnits m : ℚ) = F32.magUnits n) : m = n :=
  F32.magUnits_strictMono.injective (by exact_mod_cast h)

/-- No magnitude is nearer than the nearest one, and where another is as near, the nearest one is even. -/
theorem F32.IsNearest.le_abs_sub {x : ℚ} {lo r : Nat} (h : F32.IsNearest x lo r) (m : Nat) :
    |(F32.magUnits r : ℚ) - x| ≤ |(F32.magUnits m : ℚ) - x|
      ∧ (|(F32.magUnits m : ℚ) - x| = |(F32.magUnits r : ℚ) - x| → m ≠ r → r % 2 = 0) := by
  have hlower := h.lower
  have hupper := h.upper
  obtain ⟨rfl, hhalf, htie⟩ | ⟨rfl, hhalf, htie⟩ := h.choice
  · have hr : |(F32.magUnits r : ℚ) - x| = x - F32.magUnits r := by rw [abs_sub_comm, abs_of_nonneg (by linarith)]
    rw [hr]
    obtain ⟨hm, hdist, hg⟩ | ⟨hm, hdist, hg⟩ := h.abs_sub_cases m <;> rw [hdist]
    · exact ⟨by linarith, fun heq hne => absurd (F32.eq_of_magUnits_eq (by linarith)) hne⟩
    · exact ⟨by linarith, fun heq _ => htie (by linarith)⟩
  · have hr : |(F32.magUnits (lo + 1) : ℚ) - x| = F32.magUnits (lo + 1) - x := abs_of_nonneg (by linarith)
    rw [hr]
    obtain ⟨hm, hdist, hg⟩ | ⟨hm, hdist, hg⟩ := h.abs_sub_cases m <;> rw [hdist]
    · exact ⟨by linarith, fun heq _ => by have := htie (by linarith); omega⟩
    · exact ⟨by linarith, fun heq hne => absurd (F32.eq_of_magUnits_eq (by linarith)) hne⟩

/-- The largest finite number and the magnitude after it, infinity's, as if the exponents went on. -/
theorem F32.magUnits_infMag :
    F32.magUnits (F32.infMag - 1) = (2 ^ 24 - 1) * 2 ^ 253 ∧ F32.magUnits F32.infMag = 2 ^ 24 * 2 ^ 253 :=
  ⟨F32.magUnits_significand (sh := 253) (k := 2 ^ 24 - 1) (by omega) (by omega),
    F32.magUnits_significand (sh := 253) (k := 2 ^ 24) (by omega) le_rfl⟩

/-- The nearest magnitude reaches infinity exactly from half a unit above the largest finite number on. -/
theorem F32.IsNearest.infMag_le_iff {x : ℚ} {lo r : Nat} (h : F32.IsNearest x lo r) :
    F32.infMag ≤ r ↔ (2 ^ 25 - 1) * (2 : ℚ) ^ 252 ≤ x := by
  have hlower := h.lower
  have hupper := h.upper
  have hchoice := h.choice
  obtain ⟨hmax, hinf⟩ := F32.magUnits_infMag
  have hinfQ : (F32.magUnits F32.infMag : ℚ) = 2 ^ 24 * (2 * 2 ^ 252) := by rw [hinf, pow_succ 2 252]; push_cast; ring
  have hmaxQ : (F32.magUnits (F32.infMag - 1) : ℚ) = (2 ^ 24 - 1) * (2 * 2 ^ 252) := by
    rw [hmax, pow_succ 2 252]; push_cast; ring
  have hpos : (0 : ℚ) < 2 ^ 252 := by positivity
  obtain hlo | rfl | hlo : F32.infMag ≤ lo ∨ lo = F32.infMag - 1 ∨ lo + 1 ≤ F32.infMag - 1 := by omega
  · have hr : F32.infMag ≤ r := by obtain ⟨rfl, -⟩ | ⟨rfl, -⟩ := hchoice <;> omega
    have hg : (F32.magUnits F32.infMag : ℚ) ≤ F32.magUnits lo := by exact_mod_cast F32.magUnits_strictMono.monotone hlo
    exact iff_of_true hr (by linarith)
  · have hsucc : F32.infMag - 1 + 1 = F32.infMag := rfl
    have hodd : (F32.infMag - 1) % 2 = 1 := by decide
    rw [hsucc] at hchoice
    obtain ⟨rfl, hhalf, htie⟩ | ⟨rfl, hhalf, -⟩ := hchoice
    · refine iff_of_false (by decide) fun hx => ?_
      have := htie (by linarith)
      omega
    · exact iff_of_true le_rfl (by linarith)
  · have hr : ¬F32.infMag ≤ r := by obtain ⟨rfl, -⟩ | ⟨rfl, -⟩ := hchoice <;> omega
    have hg : (F32.magUnits (lo + 1) : ℚ) ≤ F32.magUnits (F32.infMag - 1) := by
      exact_mod_cast F32.magUnits_strictMono.monotone hlo
    exact iff_of_false hr fun hx => by linarith

/-- Nor is a magnitude of the other sign nearer. -/
theorem F32.IsNearest.le_abs_add {x : ℚ} {lo r : Nat} (h : F32.IsNearest x lo r) (m : Nat) :
    |(F32.magUnits r : ℚ) - x| ≤ |(F32.magUnits m : ℚ) + x|
      ∧ (|(F32.magUnits m : ℚ) + x| = |(F32.magUnits r : ℚ) - x| → r % 2 = 0) := by
  have hx : (0 : ℚ) ≤ x := le_trans (Nat.cast_nonneg _) h.lower
  have hm : (0 : ℚ) ≤ F32.magUnits m := Nat.cast_nonneg _
  obtain ⟨hle, htie⟩ := h.le_abs_sub 0
  have hzero : |(F32.magUnits 0 : ℚ) - x| = x := by rw [F32.magUnits_zero, Nat.cast_zero, zero_sub, abs_neg, abs_of_nonneg hx]
  rw [hzero] at hle htie
  rw [abs_of_nonneg (add_nonneg hm hx)]
  refine ⟨by linarith, fun heq => ?_⟩
  by_cases hr : r = 0
  · rw [hr]
  · exact htie (by linarith) (Ne.symm hr)

/-! ### The rounded number -/

/-- The distance of two signed numbers from their magnitudes. -/
theorem F32.abs_signFactor_sub (s t : Bool) (g x : ℚ) {u : ℚ} (hu : 0 < u) :
    |F32.signFactor s * g * u - F32.signFactor t * x * u| = (if s = t then |g - x| else |g + x|) * u := by
  rw [← sub_mul, abs_mul, abs_of_pos hu]
  congr 1
  cases s <;> cases t <;> simp only [F32.signFactor, if_true, if_false, Bool.false_eq_true, Bool.true_eq_false]
  · rw [one_mul, one_mul]
  · rw [one_mul, neg_one_mul, sub_neg_eq_add]
  · rw [← abs_neg]; congr 1; ring
  · rw [← abs_neg]; congr 1; ring

/-- The overflow threshold, in units of 2^-149. -/
theorem overflow_threshold_iff (x : ℚ) :
    (2 : ℚ) ^ 128 - 2 ^ 103 ≤ x * 2 ^ (-149 : ℤ) ↔ (2 ^ 25 - 1) * (2 : ℚ) ^ 252 ≤ x := by
  have hscale : (2 : ℚ) ^ 128 - 2 ^ 103 = (2 ^ 25 - 1) * 2 ^ 252 * 2 ^ (-149 : ℤ) := by norm_num
  rw [hscale, mul_le_mul_iff_of_pos_right (by positivity)]

/-- The nearest magnitude with its sign, infinite where it overflows, is the correctly rounded number. -/
theorem F32.IsNearest.roundsCorrectly {x exact : ℚ} {lo r : Nat} (h : F32.IsNearest x lo r) {neg : Bool}
    (hexact : exact = F32.signFactor neg * x * 2 ^ (-149 : ℤ)) :
    RoundsCorrectly exact (F32.pack neg (min F32.infMag r)) := by
  have hu : (0 : ℚ) < 2 ^ (-149 : ℤ) := by positivity
  have hx : 0 ≤ x := le_trans (Nat.cast_nonneg _) h.lower
  have hmin : min F32.infMag r < 2 ^ 31 := lt_of_le_of_lt (min_le_left _ _) F32.infMag_lt
  have hmag := F32.mag_pack neg hmin
  have hsign := F32.sign_pack neg hmin
  have habs : |exact| = x * 2 ^ (-149 : ℤ) := by
    rw [hexact, abs_mul, abs_mul, F32.abs_signFactor, one_mul, abs_of_nonneg hx, abs_of_pos hu]
  have hinf : F32.isInf (F32.pack neg (min F32.infMag r)) = true ↔ (2 : ℚ) ^ 128 - 2 ^ 103 ≤ |exact| := by
    rw [habs, overflow_threshold_iff, ← h.infMag_le_iff, F32.isInf_iff, hmag, min_eq_left_iff]
  refine ⟨?_, hinf, fun hover => ?_, fun hfin w hw => ?_⟩
  · rw [F32.isNaN, hmag, decide_eq_false_iff_not]
    omega
  · have hpos : 0 < |exact| := lt_of_lt_of_le (by norm_num) (hinf.mp hover)
    rw [habs] at hpos
    rw [hsign, hexact, mul_assoc, F32.signFactor]
    cases neg
    · simpa using hpos.le
    · simpa using hpos
  · rw [F32.isFinite_iff, hmag] at hfin
    have hr : min F32.infMag r = r := by omega
    rw [F32.toNat_mod_two, hmag, hr, value_eq w, value_eq (F32.pack neg r), F32.mag_pack neg (hr ▸ hmin),
      F32.sign_pack neg (hr ▸ hmin), hexact, F32.abs_signFactor_sub _ _ _ _ hu, F32.abs_signFactor_sub _ _ _ _ hu, if_pos rfl,
      mul_le_mul_iff_of_pos_right hu, mul_left_inj' hu.ne']
    by_cases hs : F32.sign w = neg
    · rw [if_pos hs, hs]
      obtain ⟨hle, htie⟩ := h.le_abs_sub (F32.mag w)
      exact ⟨hle, fun heq hne => htie heq fun hm => hne (by rw [hm])⟩
    · rw [if_neg hs]
      obtain ⟨hle, htie⟩ := h.le_abs_add (F32.mag w)
      exact ⟨hle, fun heq _ => htie heq⟩

/-- `round` is correct rounding of ±num/den units (spec/00_scope.md R10). -/
theorem F32.round_roundsCorrectly {neg : Bool} {num den : Nat} {exact : ℚ} (hden : 0 < den)
    (hexact : exact = F32.signFactor neg * (num / den) * 2 ^ (-149 : ℤ)) :
    RoundsCorrectly exact (F32.round neg num den) := by
  obtain ⟨lo, h⟩ := F32.exists_isNearest num hden
  rw [F32.round, F32.roundMag_eq]
  exact h.roundsCorrectly hexact

/-- Rounding keeps the sign it is given, on a zero and on an infinity too. -/
theorem F32.sign_round (neg : Bool) (num den : Nat) : F32.sign (F32.round neg num den) = neg :=
  F32.sign_pack neg (lt_of_le_of_lt (min_le_left _ _) F32.infMag_lt)

end Sys2Proof.Machine
end

section
/-! The operations on finite numbers are correctly rounded, and the conversion of integers is exact (spec/00_scope.md R10). -/

namespace Sys2Proof.Machine

open Sys2Proof.Claim

theorem F32.intCast_eq_signFactor (n : ℤ) : (n : ℚ) = F32.signFactor (decide (n < 0)) * n.natAbs := by
  rw [Nat.cast_natAbs, F32.signFactor]
  by_cases hn : n < 0
  · simp [hn, abs_of_neg]
  · simp [hn, abs_of_nonneg (not_lt.mp hn)]

theorem F32.signFactor_bne_eq_mul (s t : Bool) : F32.signFactor (s != t) = F32.signFactor s * F32.signFactor t := by
  cases s <;> cases t <;> simp [F32.signFactor]

theorem F32.signFactor_bne_eq_div (s t : Bool) : F32.signFactor (s != t) = F32.signFactor s / F32.signFactor t := by
  cases s <;> cases t <;> simp [F32.signFactor]

/-- A whole number is 2^149 times as many units. -/
theorem natCast_mul_unit (n : Nat) : ((n * 2 ^ 149 : ℕ) : ℚ) * 2 ^ (-149 : ℤ) = n := by
  rw [Nat.cast_mul, mul_assoc]
  norm_num

/-! ### Sums -/

theorem value_add_value (a b : Number) :
    value a + value b = (F32.signedUnits a + F32.signedUnits b : ℤ) * 2 ^ (-149 : ℤ) := by
  rw [value_eq_signedUnits, value_eq_signedUnits, ← add_mul, Int.cast_add]

theorem value_add_value_eq_zero_iff (a b : Number) :
    value a + value b = 0 ↔ F32.signedUnits a + F32.signedUnits b = 0 := by
  rw [value_add_value, mul_eq_zero, or_iff_left (by positivity), Int.cast_eq_zero]

/-- The sum of finite numbers, whatever NaN it would give elsewhere. -/
theorem F32.addOr_finite (nan : Number) {a b : Number} (ha : F32.isFinite a = true) (hb : F32.isFinite b = true) :
    F32.addOr nan a b
      = if F32.signedUnits a + F32.signedUnits b = 0 then F32.pack (F32.sign a && F32.sign b) 0
        else F32.round (decide (F32.signedUnits a + F32.signedUnits b < 0)) (F32.signedUnits a + F32.signedUnits b).natAbs 1 := by
  simp [F32.addOr, F32.isNaN_of_isFinite ha, F32.isNaN_of_isFinite hb, F32.isInf_of_isFinite ha, F32.isInf_of_isFinite hb]

theorem F32.round_zero (neg : Bool) : F32.round neg 0 1 = F32.pack neg 0 := by
  cases neg <;> decide

/-- A finite sum is the rounding of its units; where they cancel, of a zero with the sign R10 gives it. -/
theorem F32.addOr_roundsCorrectly (nan : Number) {a b : Number} (ha : F32.isFinite a = true) (hb : F32.isFinite b = true) :
    RoundsCorrectly (value a + value b) (F32.addOr nan a b) := by
  rw [F32.addOr_finite nan ha hb, value_add_value]
  split
  next hzero =>
    rw [← F32.round_zero]
    exact F32.round_roundsCorrectly one_pos (by simp [hzero])
  next =>
    exact F32.round_roundsCorrectly one_pos (by rw [Nat.cast_one, div_one, ← F32.intCast_eq_signFactor])

theorem F32.addOr_of_sum_zero (nan : Number) {a b : Number} (ha : F32.isFinite a = true) (hb : F32.isFinite b = true)
    (hzero : value a + value b = 0) :
    F32.addOr nan a b = if F32.sign a = true ∧ F32.sign b = true then 0x80000000 else 0x00000000 := by
  rw [F32.addOr_finite nan ha hb, if_pos ((value_add_value_eq_zero_iff a b).mp hzero)]
  cases F32.sign a <;> cases F32.sign b <;> decide

/-- Settles O26: a sum is one rounding of the exact sum of units, and a difference is the sum with the negated operand. -/
theorem sumIsCorrectlyRounded : Obligations.SumIsCorrectlyRounded := by
  intro a b ha hb
  have hneg : F32.isFinite (F32.neg b) = true := by rwa [F32.isFinite_neg]
  have hdiff : value a - value b = value a + value (F32.neg b) := by rw [value_neg, sub_eq_add_neg]
  refine ⟨F32.addOr_roundsCorrectly _ ha hb, ?_, F32.addOr_of_sum_zero _ ha hb, fun hzero => ?_⟩
  · rw [hdiff]
    exact F32.addOr_roundsCorrectly _ ha hneg
  · rw [F32.sub, F32.addOr_of_sum_zero _ ha hneg (hdiff ▸ hzero)]
    simp only [F32.sign_neg, Bool.not_eq_true']

/-! ### Products and quotients -/

theorem F32.mul_finite {a b : Number} (ha : F32.isFinite a = true) (hb : F32.isFinite b = true) :
    F32.mul a b = F32.round (F32.sign a != F32.sign b) (F32.units a * F32.units b) (2 ^ 149) := by
  simp [F32.mul, F32.isNaN_of_isFinite ha, F32.isNaN_of_isFinite hb, F32.isInf_of_isFinite ha, F32.isInf_of_isFinite hb]

theorem F32.div_finite {a b : Number} (ha : F32.isFinite a = true) (hb : F32.isFinite b = true) (hzero : F32.isZero b = false) :
    F32.div a b = F32.round (F32.sign a != F32.sign b) (F32.units a * 2 ^ 149) (F32.units b) := by
  simp [F32.div, F32.isNaN_of_isFinite ha, F32.isNaN_of_isFinite hb, F32.isInf_of_isFinite ha, F32.isInf_of_isFinite hb, hzero]

/-- Settles O27: a product is one rounding of the product of units. -/
theorem productIsCorrectlyRounded : Obligations.ProductIsCorrectlyRounded := by
  intro a b ha hb
  rw [F32.mul_finite ha hb]
  refine ⟨F32.round_roundsCorrectly (by positivity) ?_, F32.sign_round _ _ _⟩
  rw [value_eq a, value_eq b, F32.units_eq, F32.units_eq, F32.signFactor_bne_eq_mul]
  have hunit : (2 : ℚ) ^ (-149 : ℤ) = 1 / (2 ^ 149 : ℕ) := by norm_num
  rw [hunit]
  push_cast
  ring

/-- Settles O28: a quotient is one rounding of the quotient of units. -/
theorem quotientIsCorrectlyRounded : Obligations.QuotientIsCorrectlyRounded := by
  intro a b ha hb hne
  have hzero : F32.isZero b = false := by
    rw [Bool.eq_false_iff]
    exact fun h => hne (F32.isZero_iff_value.mp h)
  have hunits : F32.units b ≠ 0 := by
    rw [F32.units_eq, ne_eq, F32.magUnits_eq_zero_iff, ← F32.isZero_iff, hzero]
    exact Bool.false_ne_true
  rw [F32.div_finite ha hb hzero]
  refine ⟨F32.round_roundsCorrectly (Nat.pos_of_ne_zero hunits) ?_, F32.sign_round _ _ _⟩
  rw [value_eq a, value_eq b, F32.units_eq, F32.units_eq, mul_div_mul_right _ _ (by positivity), mul_div_mul_comm,
    ← F32.signFactor_bne_eq_div, mul_assoc, div_mul_eq_mul_div, natCast_mul_unit]

/-! ### Integers -/

/-- A correctly rounded number is exact where a finite word denotes the exact one. -/
theorem value_eq_of_roundsCorrectly {exact : ℚ} {r w : Number} (h : RoundsCorrectly exact r) (hr : F32.isFinite r = true)
    (hw : F32.isFinite w = true) (hexact : value w = exact) : value r = exact := by
  obtain ⟨-, -, -, hnearest⟩ := h
  obtain ⟨hle, -⟩ := hnearest hr w hw
  rwa [hexact, sub_self, abs_zero, abs_nonpos_iff, sub_eq_zero] at hle

/-- A correctly rounded number is finite where the exact one is below the overflow threshold. -/
theorem isFinite_of_roundsCorrectly {exact : ℚ} {r : Number} (h : RoundsCorrectly exact r)
    (hexact : |exact| < 2 ^ 128 - 2 ^ 103) : F32.isFinite r = true := by
  obtain ⟨hnan, hinf, -, -⟩ := h
  refine F32.isFinite_of_not hnan ?_
  rw [Bool.eq_false_iff, ne_eq, hinf, not_le]
  exact hexact

/-- Every integer of 24 bits or fewer is the value of a word. -/
theorem exists_value_eq_intCast {n : ℤ} (hn : n.natAbs < 2 ^ 24) :
    ∃ w : Number, F32.isFinite w = true ∧ value w = n := by
  obtain ⟨m, hm⟩ := F32.exists_magUnits_eq hn 149
  have hfin : m < F32.infMag := by
    obtain ⟨-, hinf⟩ := F32.magUnits_infMag
    rw [← F32.magUnits_strictMono.lt_iff_lt, hm, hinf]
    exact Nat.mul_lt_mul_of_lt_of_le hn (Nat.pow_le_pow_right two_pos (by norm_num)) (by positivity)
  have hlt : m < 2 ^ 31 := hfin.trans F32.infMag_lt
  refine ⟨F32.pack (decide (n < 0)) m, F32.isFinite_iff.mpr (by rwa [F32.mag_pack _ hlt]), ?_⟩
  rw [value_eq, F32.sign_pack _ hlt, F32.mag_pack _ hlt, hm, mul_assoc, natCast_mul_unit, ← F32.intCast_eq_signFactor]

/-- Settles O31: the integer is a number of at most 24 bits, so a word denotes it, and its rounding is that word's value. -/
theorem int16ConversionIsExact : Obligations.Int16ConversionIsExact := by
  intro v
  have hlow := BitVec.le_toInt v
  have hhigh := BitVec.toInt_lt (x := v)
  have hround : RoundsCorrectly (v.toInt : ℚ) (F32.fromInt16 v) := by
    refine F32.round_roundsCorrectly one_pos ?_
    rw [Nat.cast_one, div_one, mul_assoc, natCast_mul_unit, ← F32.intCast_eq_signFactor]
  have hsmall : |(v.toInt : ℚ)| < 2 ^ 128 - 2 ^ 103 := by
    have hbound : |v.toInt| ≤ 2 ^ 15 := abs_le.mpr ⟨by omega, by omega⟩
    calc |(v.toInt : ℚ)| ≤ 2 ^ 15 := by exact_mod_cast hbound
      _ < 2 ^ 128 - 2 ^ 103 := by norm_num
  have hfin := isFinite_of_roundsCorrectly hround hsmall
  obtain ⟨w, hw, hvalue⟩ := exists_value_eq_intCast (n := v.toInt) (by omega)
  exact ⟨hfin, value_eq_of_roundsCorrectly hround hfin hw hvalue, fun hzero => by rw [hzero]; decide⟩

end Sys2Proof.Machine
end

section
/-! The operations outside the finite numbers, and the quiet comparisons (spec/00_scope.md R10). -/

namespace Sys2Proof.Machine

open Sys2Proof.Claim

/-! ### NaN operands and invalid operations -/

theorem F32.addOr_of_isNaN (nan : Number) {a b : Number} (h : F32.isNaN a = true ∨ F32.isNaN b = true) :
    F32.addOr nan a b = nan := by
  rw [F32.addOr, if_pos (by simpa using h)]

theorem F32.mul_of_isNaN {a b : Number} (h : F32.isNaN a = true ∨ F32.isNaN b = true) :
    F32.mul a b = F32.nanOf .mul a b := by
  rw [F32.mul, if_pos (by simpa using h)]

theorem F32.div_of_isNaN {a b : Number} (h : F32.isNaN a = true ∨ F32.isNaN b = true) :
    F32.div a b = F32.nanOf .div a b := by
  rw [F32.div, if_pos (by simpa using h)]

/-! ### An infinite operand -/

@[simp] theorem F32.isInf_pack_infMag (neg : Bool) : F32.isInf (F32.pack neg F32.infMag) = true :=
  F32.isInf_iff.mpr (F32.mag_pack neg F32.infMag_lt)

@[simp] theorem F32.sign_pack_infMag (neg : Bool) : F32.sign (F32.pack neg F32.infMag) = neg :=
  F32.sign_pack neg F32.infMag_lt

@[simp] theorem F32.isZero_pack_zero (neg : Bool) : F32.isZero (F32.pack neg 0) = true :=
  F32.isZero_iff.mpr (F32.mag_pack neg (by norm_num))

@[simp] theorem F32.sign_pack_zero (neg : Bool) : F32.sign (F32.pack neg 0) = neg :=
  F32.sign_pack neg (by norm_num)

/-- Two infinities: of one sign, the sum is either; of two, it is invalid. -/
theorem F32.addOr_inf_inf (nan : Number) {a b : Number} (ha : F32.isInf a = true) (hb : F32.isInf b = true) :
    F32.addOr nan a b = if F32.sign a = F32.sign b then a else nan := by
  simp only [F32.addOr, F32.isNaN_of_isInf ha, F32.isNaN_of_isInf hb, ha, hb, Bool.or_self, Bool.true_and, if_true,
    Bool.false_eq_true, if_false, bne_iff_ne, ite_not]

theorem F32.addOr_inf_finite (nan : Number) {a b : Number} (ha : F32.isInf a = true) (hb : F32.isFinite b = true) :
    F32.addOr nan a b = a := by
  simp [F32.addOr, F32.isNaN_of_isInf ha, F32.isNaN_of_isFinite hb, ha, F32.isInf_of_isFinite hb]

theorem F32.addOr_finite_inf (nan : Number) {a b : Number} (ha : F32.isFinite a = true) (hb : F32.isInf b = true) :
    F32.addOr nan a b = b := by
  simp [F32.addOr, F32.isNaN_of_isFinite ha, F32.isNaN_of_isInf hb, F32.isInf_of_isFinite ha, hb]

/-- A product with an infinite operand and no NaN: invalid with a zero, else an infinity. -/
theorem F32.mul_of_isInf {a b : Number} (ha : F32.isNaN a = false) (hb : F32.isNaN b = false)
    (h : F32.isInf a = true ∨ F32.isInf b = true) :
    F32.mul a b = if F32.isZero a = true ∨ F32.isZero b = true then F32.nanOf .mul a b
      else F32.pack (F32.sign a != F32.sign b) F32.infMag := by
  simp only [F32.mul, ha, hb, Bool.or_self, Bool.false_eq_true, if_false, Bool.or_eq_true, h, if_true]

theorem F32.div_inf_inf {a b : Number} (ha : F32.isInf a = true) (hb : F32.isInf b = true) :
    F32.div a b = F32.nanOf .div a b := by
  simp [F32.div, F32.isNaN_of_isInf ha, F32.isNaN_of_isInf hb, ha, hb]

theorem F32.div_inf_finite {a b : Number} (ha : F32.isInf a = true) (hb : F32.isFinite b = true) :
    F32.div a b = F32.pack (F32.sign a != F32.sign b) F32.infMag := by
  simp [F32.div, F32.isNaN_of_isInf ha, F32.isNaN_of_isFinite hb, ha, F32.isInf_of_isFinite hb]

theorem F32.div_finite_inf {a b : Number} (ha : F32.isFinite a = true) (hb : F32.isInf b = true) :
    F32.div a b = F32.pack (F32.sign a != F32.sign b) 0 := by
  simp [F32.div, F32.isNaN_of_isFinite ha, F32.isNaN_of_isInf hb, F32.isInf_of_isFinite ha, hb]

/-- A finite number divided by a zero: invalid for a zero, else an infinity. -/
theorem F32.div_finite_zero {a b : Number} (ha : F32.isFinite a = true) (hb : F32.isZero b = true) :
    F32.div a b = if F32.isZero a = true then F32.nanOf .div a b else F32.pack (F32.sign a != F32.sign b) F32.infMag := by
  have hbfin := F32.isFinite_of_isZero hb
  simp [F32.div, F32.isNaN_of_isFinite ha, F32.isNaN_of_isFinite hbfin, F32.isInf_of_isFinite ha,
    F32.isInf_of_isFinite hbfin, hb]

/-- Settles O29, case by case over the classes of the operands. -/
theorem specialOperands : Obligations.SpecialOperands := by
  intro a b
  refine ⟨fun hnan => ?_, fun ha hb => ?_, fun ha hb => ?_, fun ha hnan hzero => ?_, fun ha hb => ?_, fun ha hb => ?_,
    fun ha hne hb => ?_⟩
  · have hneg : F32.isNaN a = true ∨ F32.isNaN (F32.neg b) = true := by rwa [F32.isNaN_neg]
    simp only [F32.add, F32.sub, F32.addOr_of_isNaN _ hnan, F32.addOr_of_isNaN _ hneg, F32.mul_of_isNaN hnan,
      F32.div_of_isNaN hnan, F32.isNaN_nanOf, and_self]
  · have hneg : F32.isInf (F32.neg b) = true := by rwa [F32.isInf_neg]
    simp only [F32.add, F32.sub, F32.addOr_inf_inf _ ha hb, F32.addOr_inf_inf _ ha hneg, F32.div_inf_inf ha hb,
      F32.isNaN_nanOf, F32.sign_neg, true_and]
    refine ⟨fun hs => ?_, fun hs => ?_⟩
    · rw [if_neg hs, if_pos (Bool.eq_not_of_ne hs)]
      exact ⟨F32.isNaN_nanOf .., rfl⟩
    · rw [if_pos hs, if_neg (by simp [hs])]
      exact ⟨F32.isNaN_nanOf .., rfl⟩
  · have hnan := F32.isNaN_of_isInf ha
    have hbnan := F32.isNaN_of_isFinite (F32.isFinite_of_isZero hb)
    rw [F32.mul_of_isInf hnan hbnan (.inl ha), F32.mul_of_isInf hbnan hnan (.inr ha), if_pos (.inr hb), if_pos (.inl hb)]
    exact ⟨F32.isNaN_nanOf .., F32.isNaN_nanOf ..⟩
  · have hanan := F32.isNaN_of_isInf ha
    have hazero := F32.isZero_of_isInf ha
    rw [F32.mul_of_isInf hanan hnan (.inl ha), F32.mul_of_isInf hnan hanan (.inr ha), if_neg (by simp [hazero, hzero]),
      if_neg (by simp [hazero, hzero])]
    simp only [F32.isInf_pack_infMag, F32.sign_pack_infMag, bne_comm, and_self]
  · have hneg : F32.isFinite (F32.neg b) = true := by rwa [F32.isFinite_neg]
    have hinfneg : F32.isInf (F32.neg a) = true := by rwa [F32.isInf_neg]
    simp only [F32.add, F32.sub, F32.addOr_inf_finite _ ha hb, F32.addOr_finite_inf _ hb ha, F32.addOr_inf_finite _ ha hneg,
      F32.addOr_finite_inf _ hb hinfneg, F32.div_inf_finite ha hb, F32.div_finite_inf hb ha, F32.isInf_pack_infMag,
      F32.sign_pack_infMag, F32.isZero_pack_zero, F32.sign_pack_zero, true_and]
    exact bne_comm
  · rw [F32.div_finite_zero (F32.isFinite_of_isZero ha) hb, if_pos ha]
    exact F32.isNaN_nanOf ..
  · rw [F32.div_finite_zero ha hb, if_neg (by simp [hne])]
    exact ⟨F32.isInf_pack_infMag _, F32.sign_pack_infMag _⟩

/-! ### Comparisons -/

/-- The order of the numbers that are no NaN is that of their keys. -/
theorem F32.lt_iff_key {a b : Number} (ha : F32.isNaN a = false) (hb : F32.isNaN b = false) :
    F32.lt a b = true ↔ F32.key a < F32.key b := by
  simp [F32.lt, ha, hb]

theorem F32.eq_iff_key {a b : Number} (ha : F32.isNaN a = false) (hb : F32.isNaN b = false) :
    F32.eq a b = true ↔ F32.key a = F32.key b := by
  simp [F32.eq, ha, hb]

/-- The keys order the words as their units do. -/
theorem F32.key_lt_key_iff (a b : Number) : F32.key a < F32.key b ↔ F32.signedUnits a < F32.signedUnits b := by
  have hab : F32.magUnits (F32.mag a) < F32.magUnits (F32.mag b) ↔ F32.mag a < F32.mag b :=
    F32.magUnits_strictMono.lt_iff_lt
  have hba : F32.magUnits (F32.mag b) < F32.magUnits (F32.mag a) ↔ F32.mag b < F32.mag a :=
    F32.magUnits_strictMono.lt_iff_lt
  have ha := @F32.magUnits_eq_zero_iff (F32.mag a)
  have hb := @F32.magUnits_eq_zero_iff (F32.mag b)
  simp only [F32.key, F32.signedUnits, F32.units_eq]
  cases F32.sign a <;> cases F32.sign b <;> simp only [if_true, if_false, Bool.false_eq_true] <;> omega

theorem F32.key_lt_key_iff_value (a b : Number) : F32.key a < F32.key b ↔ value a < value b := by
  rw [F32.key_lt_key_iff, value_eq_signedUnits, value_eq_signedUnits, mul_lt_mul_iff_of_pos_right (by positivity), Int.cast_lt]

theorem F32.key_eq_key_iff_value (a b : Number) : F32.key a = F32.key b ↔ value a = value b := by
  rw [le_antisymm_iff, le_antisymm_iff, ← not_lt, ← not_lt, F32.key_lt_key_iff_value, F32.key_lt_key_iff_value, not_lt, not_lt]

/-- The infinities are the two ends of the order, each its own word. -/
theorem F32.key_cases_of_isInf {a b : Number} (ha : F32.isInf a = true) (hb : F32.isNaN b = false) :
    (F32.key a = F32.key b ↔ a = b) ∧ (F32.key a < F32.key b ↔ F32.sign a = true ∧ a ≠ b)
      ∧ (F32.key b < F32.key a ↔ F32.sign a = false ∧ a ≠ b) := by
  have hinf := F32.isInf_iff.mp ha
  have hpos : 0 < F32.infMag := by decide
  have hle : F32.mag b ≤ F32.infMag := by simpa [F32.isNaN] using hb
  have hsame : a = b ↔ F32.sign a = F32.sign b ∧ F32.mag b = F32.infMag :=
    ⟨fun h => ⟨by rw [h], by rw [← h, hinf]⟩, fun ⟨hs, hm⟩ => F32.eq_of_sign_of_mag hs (hinf.trans hm.symm)⟩
  simp only [F32.key, hinf, ne_eq, hsame]
  clear hsame
  cases F32.sign a <;> cases F32.sign b <;>
    simp only [if_true, if_false, Bool.false_eq_true, Bool.true_eq_false, true_and, false_and, not_false_eq_true,
      and_true, iff_false, iff_true] <;>
    exact ⟨by omega, by omega, by omega⟩

/-- Settles O30: the keys order the words as their values do, and the infinities are the ends of the order. -/
theorem comparisonsFollowTheValues : Obligations.ComparisonsFollowTheValues := by
  intro a b
  refine ⟨fun ha hb => ?_, fun hnan => ?_, fun ha hb => ?_, F32.sign_neg a, F32.mag_neg a, F32.sign_abs a, F32.mag_abs a,
    fun _ => ⟨value_neg a, value_abs a⟩⟩
  · have hanan := F32.isNaN_of_isFinite ha
    have hbnan := F32.isNaN_of_isFinite hb
    exact ⟨(F32.lt_iff_key hanan hbnan).trans (F32.key_lt_key_iff_value a b),
      (F32.eq_iff_key hanan hbnan).trans (F32.key_eq_key_iff_value a b)⟩
  · rw [F32.lt, F32.eq]
    obtain h | h := hnan <;> simp [h]
  · have hanan := F32.isNaN_of_isInf ha
    obtain ⟨heq, hlt, hgt⟩ := F32.key_cases_of_isInf ha hb
    exact ⟨(F32.eq_iff_key hanan hb).trans heq, (F32.eq_iff_key hb hanan).trans (eq_comm.trans heq),
      (F32.lt_iff_key hanan hb).trans hlt, (F32.lt_iff_key hb hanan).trans hgt⟩

end Sys2Proof.Machine
end

section
/-! The register map and the accesses while a command is in progress. -/

namespace Sys2Proof.Machine

open Sys2Proof.Claim

/-! ### The register map -/

theorem locOffset_mod_four (l : Loc) : locOffset l % 4 = 0 := by
  cases l with
  | ac k | lagw k | lpc k | rc k | x k | win k | xw k =>
    simp only [locOffset, acBase, lagwBase, lpcBase, rcBase, xBase, winBase, xwBase]
    omega
  | id | ctrl | cfgN | cfgP | cmd | status | errinfo | nfAdd | nfMul | err => rfl

/-- The named registers lie below the arrays (spec/10_state.md R21). -/
theorem registerAt_of_acBase_le {a : Nat} (h : acBase ≤ a) : registerAt a = none := by
  have hne : ∀ k, k < 0x100 → a ≠ k := fun k hk => (Nat.lt_of_lt_of_le hk h).ne'
  simp [registerAt, hne]

/-- The finder of array entries finds each entry at its offset: the arrays do not overlap (spec/10_state.md R21). -/
theorem arrayEntryAt_locOffset {l : Loc} (hl : locExists l = true) (hs : acBase ≤ locOffset l) :
    arrayEntryAt (locOffset l) = some l := by
  unfold arrayEntryAt
  cases l with
  | id | ctrl | cfgN | cfgP | cmd | status | errinfo | nfAdd | nfMul | err => simp [acBase, locOffset] at hs
  | ac k | lagw k | lpc k | rc k | x k | win k | xw k =>
    simp only [locExists, decide_eq_true_eq, Config.pMax, Config.nMax] at hl
    simp only [inArray_iff, locOffset, acBase, lagwBase, lpcBase, rcBase, xBase, winBase, xwBase, Config.pMax, Config.nMax]
    simp (disch := omega) only [if_pos, if_neg, Nat.add_sub_cancel_left, Nat.mul_div_cancel_left]

/-- The location at the offset of a location is that location (spec/10_state.md R21). -/
theorem locate_locOffset {l : Loc} (hl : locExists l = true) : locate (locOffset l) = some l := by
  by_cases hs : acBase ≤ locOffset l
  · simp [locate, locOffset_mod_four, registerAt_of_acBase_le hs, arrayEntryAt_locOffset hl hs]
  · cases l with
    | ac k | lagw k | lpc k | rc k | x k | win k | xw k =>
      simp only [locOffset, acBase, lagwBase, lpcBase, rcBase, xBase, winBase, xwBase] at hs
      omega
    | id | ctrl | cfgN | cfgP | cmd | status | errinfo | nfAdd | nfMul | err => rfl

/-- Settles O6: what the finder finds lies there, and it finds every existing location at its offset. -/
theorem registerMapExact : Obligations.RegisterMapExact := by
  refine fun a l => ⟨fun h => (locate_sound h).symm, ?_⟩
  rintro ⟨hl, rfl⟩
  exact locate_locOffset hl

/-! ### Rejected and accepted accesses -/

/-- Raising an error changes ERRINFO and the response alone (spec/60_exceptions.md R144, R145). -/
theorem raiseError_eq_rejected (c : ErrCode) (addr : Nat) (we : Bool) (s : State) :
    raiseError c addr we s = rejected c addr we s := by
  unfold raiseError rejected
  by_cases h : s.ecode = .none <;> simp only [h, if_true, if_false] <;> rfl

/-- The state after a read that passes the access check (spec/40_host_access.md R85). -/
theorem hostRead_of_ok {size : BitVec 2} {addr : Nat} {s : State} {l : Loc} (h : accessCheck false size addr 0 s = .ok l) :
    hostRead size addr s = respond { err := false, rdata := readValue l s } s := by
  simp only [hostRead, h]

/-- The state after a write that passes the access check (spec/40_host_access.md R86). -/
theorem hostWrite_of_ok {size : BitVec 2} {addr : Nat} {data : Word} {s : State} {l : Loc}
    (h : accessCheck true size addr data s = .ok l) :
    hostWrite size addr data s = respond { err := false, rdata := 0 } (writeLoc l data s) := by
  simp only [hostWrite, h]

/-- A word read that passes the check whatever the engine does: of STATUS and of ERRINFO (spec/10_state.md R41). -/
theorem accessCheck_read_allowedWhileBusy {l : Loc} (hl : l = .status ∨ l = .errinfo) (s : State) :
    accessCheck false 2 (locOffset l) 0 s = .ok l := by
  have hloc : locate (locOffset l) = some l := by obtain rfl | rfl := hl <;> rfl
  have hallowed : allowedWhileBusy false l = true := by simpa [allowedWhileBusy] using hl
  simp [accessCheck, locOffset_mod_four, hloc, hallowed]

/-- While a command is in progress every write is rejected (spec/10_state.md R41). -/
theorem hostWrite_rejected_of_busy {s : State} (hb : busy s = true) (size : BitVec 2) (addr : Nat) (data : Word) :
    ∃ c, hostWrite size addr data s = rejected c addr true s := by
  obtain ⟨c, -, h⟩ | ⟨l, hok, -⟩ := hostWrite_cases size addr data s
  · exact ⟨c, h.trans (raiseError_eq_rejected ..)⟩
  · obtain ⟨-, -, -, hallowed, -⟩ := accessCheck_ok hok
    exact absurd (hallowed hb) (by simp [allowedWhileBusy])

/-- While a command is in progress every read but those of the words STATUS and ERRINFO is rejected (spec/10_state.md R41). -/
theorem hostRead_rejected_of_busy {s : State} (hb : busy s = true) {size : BitVec 2} {addr : Nat}
    (hother : ¬(size = 2 ∧ (addr = 0x014 ∨ addr = 0x018))) : ∃ c, hostRead size addr s = rejected c addr false s := by
  obtain ⟨c, -, h⟩ | ⟨l, hok, -⟩ := hostRead_cases size addr s
  · exact ⟨c, h.trans (raiseError_eq_rejected ..)⟩
  · obtain ⟨hsize, -, hloc, hallowed, -⟩ := accessCheck_ok hok
    obtain ⟨rfl, -⟩ := locate_sound hloc
    have hl : l = .status ∨ l = .errinfo := by simpa [allowedWhileBusy] using hallowed hb
    refine absurd ⟨hsize, ?_⟩ hother
    obtain rfl | rfl := hl
    · exact .inl rfl
    · exact .inr rfl

/-- Settles O9: the busy check turns away every access that would pass the checks before it, but the reads of STATUS and ERRINFO. -/
theorem busyAdmitsOnlyTwoReads : Obligations.BusyAdmitsOnlyTwoReads := by
  refine fun s => ⟨busy_eq_true, fun hpend => ?_⟩
  have hb : busy s = true := busy_eq_true.mpr hpend
  refine ⟨fun size addr data => ?_, fun size addr hother => ?_, ?_, ?_⟩
  · obtain ⟨c, h⟩ := hostWrite_rejected_of_busy hb size addr data
    exact ⟨c, by rw [exec_regWrite, h]⟩
  · obtain ⟨c, h⟩ := hostRead_rejected_of_busy hb hother
    exact ⟨c, by rw [exec_regRead, h]⟩
  · exact congrArg Host.Outcome.next (hostRead_of_ok (accessCheck_read_allowedWhileBusy (.inl rfl) s))
  · exact congrArg Host.Outcome.next (hostRead_of_ok (accessCheck_read_allowedWhileBusy (.inr rfl) s))

end Sys2Proof.Machine
end

section
/-! The flags: what the stages set, what lowers irq, and the values after a reset. -/

namespace Sys2Proof.Machine

open Sys2Proof.Claim

/-! ### The stages -/

/-- A stage that writes one array sets NONFINITE at most (spec/41_signal_ops.md R104, R106; spec/42_levinson.md R115). -/
theorem noteNonfinite_storeArray (b : Bool) (base : Nat) (ws : List Word) (s : State) :
    noteNonfinite b (storeArray base ws s)
      = { noteRecursion false false false b s with mem := s.mem.storeWords base ws, err := s.err } := by
  simp [noteNonfinite, noteRecursion, storeArray]

/-- What a stage other than SOFTRESET can do: set result flags and write arrays, and RECURSE alone sets ERR and the flags of the
recursion (spec/10_state.md R42, spec/20_memory.md R61). -/
theorem performStage_cases {st : Stage} (h : st ≠ .softreset) (s : State) :
    ∃ z d u f mem err, performStage st s = { noteRecursion z d u f s with mem := mem, err := err }
      ∧ (st ≠ .recurse → z = false ∧ d = false ∧ u = false ∧ err = s.err) := by
  cases st with
  | softreset => exact absurd rfl h
  | nop => exact ⟨false, false, false, false, s.mem, s.err, by simp [performStage, stageNop, noteRecursion], by simp⟩
  | window | autocorr | condition =>
    exact ⟨false, false, false, _, _, s.err, noteNonfinite_storeArray .., by simp⟩
  | recurse => exact ⟨_, _, _, _, _, _, rfl, by simp⟩

/-- Settles O24: a stage sets its flags by `noteRecursion`, which keeps the flags that are set. -/
theorem stagesOnlySetFlags : Obligations.StagesOnlySetFlags := by
  rintro st s t hst rfl
  have hnop : st = .nop → performStage st s = s := by rintro rfl; rfl
  obtain ⟨z, d, u, f, mem, err, h, hkept⟩ := performStage_cases hst s
  rw [h] at hnop ⊢
  refine ⟨fun hz => by simp [hz], fun hd => by simp [hd], fun hu => by simp [hu], fun hf => by simp [hf], rfl, rfl, rfl, rfl, rfl,
    rfl, rfl, rfl, rfl, rfl, rfl, rfl, rfl, rfl, hnop, fun hrec => ?_⟩
  obtain ⟨rfl, rfl, rfl, rfl⟩ := hkept hrec
  simp

/-! ### irq -/

/-- The words below 8 are the command words (spec/30_encoding.md R73). -/
theorem exists_commandWord {v : Word} (h : v.toNat < 8) : ∃ i, isCommand i ∧ commandWord i = v := by
  have hword : ∀ k : Fin 8, ∃ i, isCommand i ∧ commandWord i = BitVec.ofNat 32 k := by
    intro k
    fin_cases k
    · exact ⟨.nop, by decide, rfl⟩
    · exact ⟨.window, by decide, rfl⟩
    · exact ⟨.autocorr, by decide, rfl⟩
    · exact ⟨.condition, by decide, rfl⟩
    · exact ⟨.recurse, by decide, rfl⟩
    · exact ⟨.levinson, by decide, rfl⟩
    · exact ⟨.analyze, by decide, rfl⟩
    · exact ⟨.softreset, by decide, rfl⟩
  simpa using hword ⟨v.toNat, h⟩

/-- A write of STATUS to an idle block is accepted (spec/40_host_access.md R92). -/
theorem hostWrite_status {s : State} (hb : busy s = false) (v : Word) :
    hostWrite 2 0x014 v s = respond { err := false, rdata := 0 } (clearFlags v s) := by
  have hloc : locate 0x014 = some .status := rfl
  refine hostWrite_of_ok (l := .status) ?_
  simp [accessCheck, hloc, hb, readOnly, outOfRange, illegalCommand]

/-- irq is low while DONE is clear (spec/10_state.md R43). -/
theorem irq_eq_false_of_done {s : State} (h : s.done = false) : irq s = false := by simp [irq, h]

/-- Settles O20: the accepted write of STATUS and the acceptance of a command clear DONE, the resets clear IE. -/
theorem irqIsIeAndDone : Obligations.IrqIsIeAndDone := by
  refine fun s => ⟨by simp [irq], rfl, rfl, fun hpend v => ⟨fun hbit => ?_, fun hlt => ?_⟩⟩
  · refine ⟨_, congrArg Host.Outcome.next (hostWrite_status (busy_eq_false.mpr hpend) v), irq_eq_false_of_done ?_⟩
    simp [hbit]
  · obtain ⟨i, hi, rfl⟩ := exists_commandWord hlt
    exact ⟨_, congrArg Host.Outcome.next (hostWrite_command hi (busy_eq_false.mpr hpend)), irq_eq_false_of_done rfl⟩

/-! ### The values after a reset -/

/-- A memory that lists nothing holds the reset contents (log entry 4). -/
theorem Memory.readWord_nil {a : Nat} (h : a % 4 = 0) : Memory.readWord [] a = resetWord a := by
  have hlane : ∀ b, b < 4 → Memory.unlisted (a + b) = laneByte (resetWord a) b := by
    intro b hb
    rw [Memory.unlisted, show (a + b) / 4 * 4 = a by omega, show (a + b) % 4 = b by omega]
  have h0 : Memory.unlisted a = laneByte (resetWord a) 0 := hlane 0 (by omega)
  simp only [Memory.readWord, Memory.read_nil, h0, hlane 1 (by omega), hlane 2 (by omega), hlane 3 (by omega),
    wordOfLanes_laneByte]

theorem resetWord_lagw {k : Nat} (h : k ≤ 16) : resetWord (locOffset (.lagw k)) = lagwTable.getD k 0 := by
  have hin : inArray lagwBase (Config.pMax + 1) (lagwBase + 4 * k) = true :=
    inArray_iff.mpr ⟨by omega, by simp only [Config.pMax]; omega⟩
  simp [resetWord, locOffset, hin]

theorem resetWord_win {i : Nat} (h : i < 1024) : resetWord (locOffset (.win i)) = winTable.getD i 0 := by
  have hin : inArray winBase Config.nMax (winBase + 4 * i) = true :=
    inArray_iff.mpr ⟨by omega, by simp only [Config.nMax]; omega⟩
  have hout : inArray lagwBase (Config.pMax + 1) (winBase + 4 * i) = false := by
    rw [Bool.eq_false_iff, ne_eq, inArray_iff]
    simp only [lagwBase, winBase, Config.pMax]
    omega
  simp [resetWord, locOffset, hin, hout]

/-- Outside the two tables the reset contents are zero (spec/10_state.md R45). -/
theorem resetWord_eq_zero {a : Nat} (hlagw : a < 0x180 ∨ 0x1C4 ≤ a) (hwin : a < 0x2000 ∨ 0x3000 ≤ a) : resetWord a = 0 := by
  have hout : ∀ {base count : Nat}, (a < base ∨ base + 4 * count ≤ a) → inArray base count a = false := by
    intro base count h
    rw [Bool.eq_false_iff, ne_eq, inArray_iff]
    omega
  simp [resetWord, hout (base := lagwBase) (count := Config.pMax + 1) hlagw, hout (base := winBase) (count := Config.nMax) hwin]

/-- The word at a location of a block whose memory lists nothing. -/
theorem wordAt_of_mem_nil {t : State} (h : t.mem = []) (l : Loc) : wordAt t (locOffset l) = resetWord (locOffset l) := by
  rw [wordAt, h, Memory.readWord_nil (locOffset_mod_four l)]

/-- The arrays of a block whose memory lists nothing (spec/10_state.md R45 to R47). -/
theorem arrays_of_mem_nil {t : State} (h : t.mem = []) :
    (∀ k, k ≤ 16 → acAt t k = 0x00000000 ∧ lagwAt t k = lagwTable.getD k 0)
      ∧ (∀ j, j < 16 → lpcAt t j = 0x00000000 ∧ rcAt t j = 0x00000000)
      ∧ ∀ i, i < 1024 → xAt t i = 0x00000000 ∧ xwAt t i = 0x00000000 ∧ winAt t i = winTable.getD i 0 := by
  have hzero : ∀ l : Loc, (locOffset l < 0x180 ∨ 0x1C4 ≤ locOffset l) → (locOffset l < 0x2000 ∨ 0x3000 ≤ locOffset l) →
      wordAt t (locOffset l) = 0 := fun l hlagw hwin => (wordAt_of_mem_nil h l).trans (resetWord_eq_zero hlagw hwin)
  refine ⟨fun k hk => ⟨hzero (.ac k) ?_ ?_, (wordAt_of_mem_nil h (.lagw k)).trans (resetWord_lagw hk)⟩,
    fun j hj => ⟨hzero (.lpc j) ?_ ?_, hzero (.rc j) ?_ ?_⟩,
    fun i hi => ⟨hzero (.x i) ?_ ?_, hzero (.xw i) ?_ ?_, (wordAt_of_mem_nil h (.win i)).trans (resetWord_win hi)⟩⟩ <;>
    simp only [locOffset, acBase, lpcBase, rcBase, xBase, xwBase] <;> omega

/-- Settles O21: the three states are the reset state but for DONE and the surroundings. -/
theorem resetValues : Obligations.ResetValues := by
  intro s t ht
  have hdone : t = stageSoftreset s ∨ t.done = false := by
    obtain rfl | rfl | rfl := ht
    · exact .inr rfl
    · exact .inr rfl
    · exact .inl rfl
  have hset : t = stageSoftreset s → t.done = true := by rintro rfl; rfl
  have hreset : ∃ done prog sch pin resp, t = { State.reset with
      done := done, program := prog, schedule := sch, pinHeld := pin, response := resp } := by
    obtain rfl | rfl | rfl := ht <;> exact ⟨_, _, _, _, _, rfl⟩
  have hmem : t.mem = [] := by obtain ⟨_, _, _, _, _, rfl⟩ := hreset; rfl
  obtain ⟨hlags, hcoefficients, hsamples⟩ := arrays_of_mem_nil hmem
  have hctrl : ctrlWord State.reset = 0x00000001 := by decide
  have herrInfo : errInfoWord State.reset = 0x00000000 := by decide
  obtain ⟨done, prog, sch, pin, resp, rfl⟩ := hreset
  exact ⟨rfl, rfl, rfl, hctrl, rfl, rfl, rfl, hdone, hset, ⟨rfl, rfl, rfl, rfl⟩, rfl, rfl, rfl, rfl, herrInfo, rfl, rfl, rfl,
    hlags, hcoefficients, hsamples, rfl, rfl, rfl, rfl⟩

end Sys2Proof.Machine
end

section
/-! One step: its inversion, the sequencer, and the invariant that every step keeps. -/

namespace Sys2Proof.Machine

open Sys2Proof.Claim

/-! ### What a step can do -/

/-- What a step from `s` to `t` is: a host's instruction, an engine step, a turn that passes, or an edge of the pin, with the turn it
takes (spec/00_scope.md R13; log entry 1). -/
inductive StepCase (s t : State) : Prop where
  | host (i : Instr) (prog : List HostStmt) (sch : List Turn) (turn : s.schedule = [] ∨ s.schedule.head? = some .host)
      (pin : s.pinHeld = false) (ran : exec i (withSurroundings s prog sch) = .next t)
  | engine (sch : List Turn) (turn : s.schedule = [] ∨ s.schedule.head? = some .engine) (pin : s.pinHeld = false)
      (ran : t = engineStep (withSurroundings s s.program sch))
  | passes (sch : List Turn) (left : t = withSurroundings s s.program sch)
  | pinRises (sch : List Turn) (turn : s.schedule.head? = some .pinRise) (left : t = pinRise (withSurroundings s s.program sch))
  | pinFalls (sch : List Turn) (left : t = pinFall (withSurroundings s s.program sch))

/-- What the machine does with an activity: the step is this of the next activity. -/
def performActivity : Activity → Host.Outcome State Fault Refusal
  | .run i s => exec i s
  | .engine s => .next (engineStep s)
  | .settled s => .next s
  | .stuck f => .fault f

theorem step_eq_performActivity (s : State) : step s = performActivity (nextActivity s) := by
  unfold step performActivity
  cases nextActivity s <;> rfl

/-- The host issues a statement only while the pin is released (spec/70_reset_and_hazards.md R163). -/
theorem pinHeld_of_hostTurn_run {s s' : State} {i : Instr} (h : hostTurn s = .run i s') : s.pinHeld = false := by
  unfold hostTurn at h
  split at h
  · cases h
  · split at h
    · cases h
    next hpin => simpa using hpin

/-- A step that is the host's turn. -/
theorem stepCase_of_hostTurn {s t : State} {sch : List Turn} (turn : s.schedule = [] ∨ s.schedule.head? = some .host)
    (h : performActivity (hostTurn (withSurroundings s s.program sch)) = .next t) : StepCase s t := by
  obtain hturn | hturn | ⟨i, prog, hturn⟩ := hostTurn_cases (withSurroundings s s.program sch) <;> rw [hturn] at h
  · cases h
    exact .passes sch rfl
  · cases h
  · exact .host i prog sch turn (pinHeld_of_hostTurn_run (s := withSurroundings s s.program sch) hturn) h

/-- A step that is the engine's turn. -/
theorem stepCase_of_engineTurn {s t : State} {sch : List Turn} (turn : s.schedule = [] ∨ s.schedule.head? = some .engine)
    (h : performActivity (engineTurn (withSurroundings s s.program sch)) = .next t) : StepCase s t := by
  unfold engineTurn at h
  split at h
  · cases h
    exact .passes sch rfl
  next hmoves =>
    cases h
    have hpin : s.pinHeld = false := by
      simp only [Bool.or_eq_true, not_or, Bool.not_eq_true] at hmoves
      exact hmoves.1
    exact .engine sch turn hpin rfl

/-- A step is one of the cases: the turn is the schedule's next, or the default one where the schedule is empty. -/
theorem stepCase_of_step {s t : State} (h : step s = .next t) : StepCase s t := by
  rw [step_eq_performActivity, nextActivity] at h
  cases hsch : s.schedule with
  | nil =>
    have hs : s = withSurroundings s s.program [] := by rw [← hsch]; rfl
    rw [hsch] at h
    simp only [defaultTurn] at h
    split at h
    · cases h
      exact .passes [] hs
    · split at h
      · rw [hs] at h
        exact stepCase_of_engineTurn (.inl hsch) h
      · rw [hs] at h
        exact stepCase_of_hostTurn (.inl hsch) h
  | cons turn rest =>
    rw [hsch] at h
    cases turn with
    | host => exact stepCase_of_hostTurn (.inr (by rw [hsch]; rfl)) h
    | engine => exact stepCase_of_engineTurn (.inr (by rw [hsch]; rfl)) h
    | pinRise => cases h; exact .pinRises rest (by rw [hsch]; rfl) rfl
    | pinFall => cases h; exact .pinFalls rest rfl

/-- Every instruction is a host access: a command is its CMD write (log entry 2). -/
theorem exec_cases {i : Instr} {s t : State} (h : exec i s = .next t) :
    (∃ size addr, t = hostRead size addr s) ∨ ∃ size addr data, t = hostWrite size addr data s := by
  cases i with
  | regRead size addr => cases h; exact .inl ⟨size, addr, rfl⟩
  | regWrite size addr data => cases h; exact .inr ⟨size, addr, data, rfl⟩
  | nop | window | autocorr | condition | recurse | levinson | analyze | softreset =>
    cases h
    exact .inr ⟨2, 0x010, _, rfl⟩

/-! ### The sequencer -/

/-- An accepted write changes `pending` only where it is a CMD write, which sets it (spec/40_host_access.md R95). -/
theorem writeLoc_pending (l : Loc) (v : Word) (s : State) :
    (writeLoc l v s).pending = s.pending ∨ (writeLoc l v s).pending = stagesOfWord (writeLoc l v s).cmd := by
  cases l with
  | cmd => exact .inr rfl
  | id | ctrl | cfgN | cfgP | status | errinfo | nfAdd | nfMul | err | ac k | lagw k | lpc k | rc k | x k | win k | xw k =>
    exact .inl rfl

/-- A host access sets `pending` only on an idle block, to the stages of the command then in CMD (spec/40_host_access.md R95). -/
theorem exec_pending {i : Instr} {s t : State} (h : exec i s = .next t) :
    t.pending = s.pending ∨ (s.pending = [] ∧ t.pending = stagesOfWord t.cmd) := by
  by_cases hb : busy s = true
  · rw [exec_frame_of_busy hb h]
    exact .inl rfl
  · have hidle : s.pending = [] := busy_eq_false.mp (by simpa using hb)
    obtain ⟨size, addr, rfl⟩ | ⟨size, addr, data, rfl⟩ := exec_cases h
    · rw [hostRead_frame size addr s]
      exact .inl rfl
    · obtain ⟨c, -, hw⟩ | ⟨l, -, hw⟩ := hostWrite_cases size addr data s <;> rw [hw]
      · exact .inl (raiseError_pending ..)
      · exact (writeLoc_pending l data s).imp id (⟨hidle, ·⟩)

/-- An engine step drops the stage it performs; SOFTRESET drops all (spec/43_control_ops.md R136). -/
theorem engineStep_pending_cases (s : State) :
    (engineStep s).pending = s.pending.tail ∨ (s.pending.head? = some .softreset ∧ (engineStep s).pending = []) := by
  obtain ⟨hp, he⟩ | ⟨rest, hp, he⟩ | ⟨st, rest, hp, -, he⟩ := engineStep_cases s <;> rw [he]
  · exact .inl (by simp [hp])
  · exact .inr ⟨by simp [hp], rfl⟩
  · exact .inl (by simp [hp])

/-- Settles O19, by the inversion of the step. -/
theorem pendingIsTheSequencer : Obligations.PendingIsTheSequencer := by
  refine ⟨fun s h => by rw [stageField, h], fun s rest => ?_, fun s t h => ?_⟩
  · have hcode : ∀ st, s.pending = st :: rest → stageField s = stageCode st := fun st h => by rw [stageField, h]
    exact ⟨hcode .window, hcode .autocorr, hcode .condition, hcode .recurse, hcode .nop, hcode .softreset⟩
  · cases stepCase_of_step h with
    | host i prog sch turn pin ran =>
      exact (exec_pending ran).imp id fun ⟨hidle, hset⟩ => .inl ⟨hidle, turn, pin, hset⟩
    | engine sch turn pin ran =>
      exact ran ▸ .inr (.inr (.inl ⟨turn, pin, engineStep_pending_cases (withSurroundings s s.program sch)⟩))
    | passes sch left => exact left ▸ .inl rfl
    | pinRises sch turn left => exact left ▸ .inr (.inr (.inr ⟨turn, rfl⟩))
    | pinFalls sch left => exact left ▸ .inl rfl

/-! ### The invariant through each operation -/

/-- The reset block meets the invariant (spec/10_state.md R45). -/
theorem State.Inv.resetBlock {s : State} (h : responseLegal s) : (resetBlock s).Inv :=
  have hconfig : configLegal State.reset := by decide
  have hstorage : storageLegal State.reset := ⟨Memory.wf_nil, by simp [State.reset]⟩
  have hcmd : stagesOfWord State.reset.cmd ≠ [] := by decide
  ⟨hconfig, hstorage, fun _ => ⟨rfl, rfl, rfl⟩, ⟨hcmd, List.nil_suffix, fun _ => rfl⟩, h⟩

/-- Settles O60: the reset state is its own reset block. -/
theorem resetMeetsTheInvariant : Obligations.ResetMeetsTheInvariant :=
  State.Inv.resetBlock (s := State.reset) (by simp [State.reset, responseLegal])

theorem State.Inv.respond {s : State} {r : Response} (h : s.Inv) (hr : r.err = true → r.rdata = 0) : (respond r s).Inv := by
  obtain ⟨hconfig, hstorage, herr, hseq, -⟩ := h
  refine ⟨hconfig, hstorage, herr, hseq, fun r' hr' => ?_⟩
  obtain rfl : r = r' := by simpa using hr'
  exact hr

/-- A raised error has a code, so the record need not be zero, and its response carries 0 (spec/60_exceptions.md R144, R145). -/
theorem State.Inv.raiseError {s : State} {c : ErrCode} (h : s.Inv) (hc : c ≠ .none) (addr : Nat) (we : Bool) :
    (raiseError c addr we s).Inv := by
  obtain ⟨hconfig, hstorage, herr, hseq, -⟩ := h
  rw [raiseError_eq_rejected]
  refine ⟨hconfig, hstorage, fun hnone => ?_, hseq, fun r hr _ => ?_⟩
  · simp only [rejected] at hnone
    split at hnone
    · exact absurd hnone hc
    · contradiction
  · obtain rfl : _ = r := by simpa [rejected] using hr
    rfl

/-- A store into cells of the arrays (spec/20_memory.md R68). -/
theorem State.Inv.storeArray {s : State} (h : s.Inv) {base : Nat} {ws : List Word}
    (hcells : ∀ a, base ≤ a → a < base + 4 * ws.length → arrayCell a = true) : (storeArray base ws s).Inv := by
  obtain ⟨hconfig, ⟨hwf, hin⟩, herr, hseq, hresp⟩ := h
  exact ⟨hconfig, ⟨Memory.wf_storeWords hwf base ws, Memory.inArrays_storeWords hin hcells⟩, herr, hseq, hresp⟩

theorem State.Inv.storeWord {s : State} {l : Loc} (h : s.Inv) (hl : locExists l = true) (hs : acBase ≤ locOffset l) (v : Word) :
    (storeWord (locOffset l) v s).Inv :=
  h.storeArray fun _ h1 h2 => arrayCell_of_loc hl hs h1 h2

/-- A legal command word names stages (spec/30_encoding.md R73, R74). -/
theorem stagesOfWord_ne_nil {v : Word} (h : decodeCmd v ≠ .reject .illegalCmd) : stagesOfWord v ≠ [] := by
  revert h
  unfold stagesOfWord decodeCmd
  split_ifs <;> simp [stagesOf]

/-- The checked values of CFG_N and CFG_P and the legal command words (spec/60_exceptions.md R146) make every accepted write keep the
invariant. -/
theorem State.Inv.writeLoc {s : State} {size : BitVec 2} {addr : Nat} {v : Word} {l : Loc} (h : s.Inv)
    (hok : accessCheck true size addr v s = .ok l) : (writeLoc l v s).Inv := by
  obtain ⟨-, -, hloc, -, hwrite⟩ := accessCheck_ok hok
  obtain ⟨-, hrange, hlegal⟩ := hwrite rfl
  obtain ⟨-, hl⟩ := locate_sound hloc
  cases l with
  | id | err | lpc j | rc j | xw i => exact h
  | ac k | lagw k | x k | win k => exact h.storeWord hl (by simp only [locOffset, acBase, lagwBase, xBase, winBase]; omega) v
  | ctrl | nfAdd | nfMul => exact h
  | cfgN =>
    obtain ⟨⟨-, -, hp⟩, hrest⟩ := h
    have hn : 1 ≤ v.toNat ∧ v.toNat ≤ Config.nMax := by simpa [outOfRange] using hrange
    exact ⟨⟨hn.1, hn.2, hp⟩, hrest⟩
  | cfgP =>
    obtain ⟨⟨hn, hn', -⟩, hrest⟩ := h
    have hp : 1 ≤ v.toNat ∧ v.toNat ≤ Config.pMax := by simpa [outOfRange] using hrange
    exact ⟨⟨hn, hn', hp⟩, hrest⟩
  | cmd =>
    obtain ⟨hconfig, hstorage, herr, -, hresp⟩ := h
    have hne : stagesOfWord v ≠ [] := stagesOfWord_ne_nil (by simpa [illegalCommand] using hlegal)
    exact ⟨hconfig, hstorage, herr, ⟨hne, List.suffix_rfl, by simp [Machine.writeLoc, writeCmd]⟩, hresp⟩
  | status =>
    obtain ⟨hconfig, hstorage, herr, ⟨hcmd, hsuffix, hdone⟩, hresp⟩ := h
    refine ⟨hconfig, hstorage, herr, ⟨hcmd, hsuffix, fun hd => hdone ?_⟩, hresp⟩
    have hd' : s.done = true ∧ v.getLsbD 1 = false := by simpa [Machine.writeLoc] using hd
    exact hd'.1
  | errinfo =>
    obtain ⟨hconfig, hstorage, -, hseq, hresp⟩ := h
    exact ⟨hconfig, hstorage, fun _ => ⟨rfl, rfl, rfl⟩, hseq, hresp⟩

/-- A read changes nothing of the invariant's but, rejected, the error record (spec/40_host_access.md R85). -/
theorem State.Inv.hostRead {s : State} (h : s.Inv) (size : BitVec 2) (addr : Nat) : (hostRead size addr s).Inv := by
  obtain ⟨c, hc, he⟩ | ⟨l, -, he⟩ := hostRead_cases size addr s <;> rw [he]
  · exact h.raiseError (accessCheck_error_ne_none hc) addr false
  · exact h.respond (by simp)

theorem State.Inv.hostWrite {s : State} (h : s.Inv) (size : BitVec 2) (addr : Nat) (data : Word) :
    (hostWrite size addr data s).Inv := by
  obtain ⟨c, hc, he⟩ | ⟨l, hok, he⟩ := hostWrite_cases size addr data s <;> rw [he]
  · exact h.raiseError (accessCheck_error_ne_none hc) addr true
  · exact (h.writeLoc hok).respond (by simp)

theorem State.Inv.exec {s t : State} {i : Instr} (h : s.Inv) (hrun : exec i s = .next t) : t.Inv := by
  obtain ⟨size, addr, rfl⟩ | ⟨size, addr, data, rfl⟩ := exec_cases hrun
  · exact h.hostRead size addr
  · exact h.hostWrite size addr data

/-! ### The invariant through the engine -/

theorem State.Inv.noteNonfinite {s : State} (h : s.Inv) (b : Bool) : (noteNonfinite b s).Inv := h

/-- A store of a list that fits its array (spec/20_memory.md R68). -/
theorem State.Inv.storeArray_of_fits {s : State} (h : s.Inv) {base count : Nat} {ws : List Word}
    (harray : ∀ a, inArray base count a = true → arrayCell a = true) (hlen : ws.length ≤ count) :
    (Machine.storeArray base ws s).Inv :=
  h.storeArray fun a hlow hhigh => harray a (inArray_iff.mpr ⟨hlow, by omega⟩)

/-- The lists the stages store fit their arrays. -/
theorem State.Inv.performStage {s : State} {st : Stage} (h : s.Inv) (hst : st ≠ .softreset) : (performStage st s).Inv := by
  have hac : ∀ a, inArray acBase (Config.pMax + 1) a = true → arrayCell a = true := fun a ha => by simp [arrayCell, ha]
  have hlpc : ∀ a, inArray lpcBase Config.pMax a = true → arrayCell a = true := fun a ha => by simp [arrayCell, ha]
  have hrc : ∀ a, inArray rcBase Config.pMax a = true → arrayCell a = true := fun a ha => by simp [arrayCell, ha]
  have hxw : ∀ a, inArray xwBase Config.nMax a = true → arrayCell a = true := fun a ha => by simp [arrayCell, ha]
  cases st with
  | softreset => exact absurd rfl hst
  | nop => exact h
  | window => exact (h.storeArray_of_fits hxw (padTo_length ..).le).noteNonfinite _
  | autocorr => exact (h.storeArray_of_fits hac (padTo_length ..).le).noteNonfinite _
  | condition =>
    refine (h.storeArray_of_fits hac ?_).noteNonfinite _
    exact (List.length_map ..).trans_le (List.length_take_le ..)
  | recurse =>
    obtain ⟨ha, hk⟩ := recursion_length s.p (conditionedLags s)
    have hstored := h.storeArray_of_fits (ws := (recursion s.p (conditionedLags s)).a.map Number.toBits) hlpc
      (by rw [List.length_map, ha])
    exact hstored.storeArray_of_fits (ws := (recursion s.p (conditionedLags s)).k.map Number.toBits) hrc
      (by rw [List.length_map, hk])

/-- DONE comes with the last stage: while a stage is pending it is clear (spec/43_control_ops.md R137). -/
theorem State.Inv.completeStage {s : State} {st : Stage} {rest : List Stage} (h : s.Inv) (hp : s.pending = st :: rest) :
    (completeStage rest s).Inv := by
  obtain ⟨hconfig, hstorage, herr, ⟨hcmd, hsuffix, hdone⟩, hresp⟩ := h
  have hclear : s.done = false := Bool.eq_false_iff.mpr fun hd =>
    List.cons_ne_nil st rest (hp.symm.trans (hdone hd))
  have hrest : rest <:+ s.pending := hp ▸ List.suffix_cons st rest
  exact ⟨hconfig, hstorage, herr, ⟨hcmd, hrest.trans hsuffix, by simp [hclear]⟩, hresp⟩

/-- SOFTRESET leaves the reset block, whose DONE comes with nothing pending (spec/43_control_ops.md R134). -/
theorem State.Inv.stageSoftreset {s : State} (h : s.Inv) : (stageSoftreset s).Inv := by
  obtain ⟨-, -, -, -, hresp⟩ := h
  obtain ⟨hconfig, hstorage, herr, ⟨hcmd, hsuffix, -⟩, hresp'⟩ := State.Inv.resetBlock hresp
  exact ⟨hconfig, hstorage, herr, ⟨hcmd, hsuffix, fun _ => rfl⟩, hresp'⟩

theorem State.Inv.engineStep {s : State} (h : s.Inv) : (engineStep s).Inv := by
  obtain ⟨-, he⟩ | ⟨rest, -, he⟩ | ⟨st, rest, hp, hst, he⟩ := engineStep_cases s <;> rw [he]
  · exact h
  · exact h.stageSoftreset
  · exact (h.performStage hst).completeStage ((performStage_pending hst s).trans hp)

theorem State.Inv.withSurroundings {s : State} (h : s.Inv) (prog : List HostStmt) (sch : List Turn) :
    (withSurroundings s prog sch).Inv := h

theorem State.Inv.pinFall {s : State} (h : s.Inv) : (pinFall s).Inv := h

theorem State.Inv.pinRise {s : State} (h : s.Inv) : (pinRise s).Inv := by
  obtain ⟨-, -, -, -, hresp⟩ := h
  exact State.Inv.resetBlock hresp

/-- Settles O59: each operation keeps the invariant, and the surroundings are no part of it. -/
theorem stepKeepsTheInvariant : Obligations.StepKeepsTheInvariant := by
  intro s t h hstep
  cases stepCase_of_step hstep with
  | host i prog sch turn pin ran => exact (h.withSurroundings prog sch).exec ran
  | engine sch turn pin ran => exact ran ▸ (h.withSurroundings s.program sch).engineStep
  | passes sch left => exact left ▸ h.withSurroundings s.program sch
  | pinRises sch turn left => exact left ▸ (h.withSurroundings s.program sch).pinRise
  | pinFalls sch left => exact left ▸ (h.withSurroundings s.program sch).pinFall

end Sys2Proof.Machine
end

section
/-! The encoding: the fields of a request word and the word of its fields, the command words, and the listing. -/

namespace Sys2Proof.Machine

open Sys2Proof.Claim

/-! ### The fields of a request word -/

@[simp] theorem reqWe_packReq (we : Bool) (size : BitVec 2) (addr : Nat) (data : Word) :
    reqWe (packReq we size addr data) = we := Laws.packReq_bit48 we size addr data

@[simp] theorem reqSize_packReq (we : Bool) (size : BitVec 2) (addr : Nat) (data : Word) :
    reqSize (packReq we size addr data) = size := by
  unfold reqSize packReq
  rw [BitVec.extractLsb'_append_eq_of_le (by decide), BitVec.extractLsb'_append_eq_of_le (by decide)]
  exact BitVec.extractLsb'_append_eq_right

/-- ADDR names the offsets of the register space, 14 bits (spec/20_memory.md R53). -/
theorem reqAddr_packReq (we : Bool) (size : BitVec 2) {addr : Nat} (h : addr < 0x4000) (data : Word) :
    reqAddr (packReq we size addr data) = addr := by
  have hfield : (packReq we size addr data).extractLsb' 32 14 = BitVec.ofNat 14 addr := by
    unfold packReq
    rw [BitVec.extractLsb'_append_eq_of_le le_rfl]
    exact BitVec.extractLsb'_append_eq_right
  rw [reqAddr, hfield, BitVec.toNat_ofNat, Nat.mod_eq_of_lt h]

@[simp] theorem reqData_packReq (we : Bool) (size : BitVec 2) (addr : Nat) (data : Word) :
    reqData (packReq we size addr data) = data := BitVec.extractLsb'_append_eq_right

theorem reqAddr_lt (w : BitVec 49) : reqAddr w < 0x4000 := (w.extractLsb' 32 14).isLt

/-- A request word is made of its four fields (spec/30_encoding.md R70). -/
theorem packReq_fields (w : BitVec 49) : packReq (reqWe w) (reqSize w) (reqAddr w) (reqData w) = w := by
  have hwe : BitVec.ofBool (reqWe w) = w.extractLsb' 48 1 := by
    apply BitVec.eq_of_getLsbD_eq
    intro i hi
    obtain rfl : i = 0 := by omega
    simp [reqWe]
  unfold packReq reqSize reqAddr reqData
  rw [hwe, BitVec.ofNat_toNat, BitVec.setWidth_eq, BitVec.extractLsb'_append_extractLsb'_eq_extractLsb' (show 48 = 46 + 2 from rfl),
    BitVec.extractLsb'_append_extractLsb'_eq_extractLsb' (show 46 = 32 + 14 from rfl),
    BitVec.extractLsb'_append_extractLsb'_eq_extractLsb' (show 32 = 0 + 32 from rfl)]
  exact BitVec.extractLsb'_eq_self

/-! ### Decoding and encoding -/

theorem decodeReq_packReq (we : Bool) (size : BitVec 2) {addr : Nat} (h : addr < 0x4000) (data : Word) :
    decodeReq (packReq we size addr data) = if we then .regWrite size addr data else .regRead size addr := by
  simp only [decodeReq, reqWe_packReq, reqSize_packReq, reqAddr_packReq we size h data, reqData_packReq]

/-- Settles O1: the fields of a packed request word are the operands, and each command has its own word. -/
theorem decodeEncodeAgree : Obligations.DecodeEncodeAgree := by
  intro i hwf
  cases i with
  | regRead size addr => exact congrArg Decoded.instr (decodeReq_packReq false size (of_decide_eq_true hwf) 0)
  | regWrite size addr data => exact congrArg Decoded.instr (decodeReq_packReq true size (of_decide_eq_true hwf) data)
  | nop | window | autocorr | condition | recurse | levinson | analyze | softreset =>
    exact decodeCmd_commandWord (by decide)

/-- The mask 0x1FFFF00000000 keeps WE, SIZE and ADDR and clears WDATA (spec/30_encoding.md R70). -/
theorem fields_and_mask (w : BitVec 49) :
    reqWe (w &&& 0x1FFFF00000000) = reqWe w ∧ reqSize (w &&& 0x1FFFF00000000) = reqSize w
      ∧ reqAddr (w &&& 0x1FFFF00000000) = reqAddr w ∧ reqData (w &&& 0x1FFFF00000000) = 0 := by
  have hsize : (0x1FFFF00000000 : BitVec 49).extractLsb' 46 2 = BitVec.allOnes 2 := by decide
  have haddr : (0x1FFFF00000000 : BitVec 49).extractLsb' 32 14 = BitVec.allOnes 14 := by decide
  have hdata : (0x1FFFF00000000 : BitVec 49).extractLsb' 0 32 = 0 := by decide
  refine ⟨by simp [reqWe], ?_, ?_, ?_⟩
  · rw [reqSize, BitVec.extractLsb'_and, hsize, BitVec.and_allOnes, reqSize]
  · rw [reqAddr, BitVec.extractLsb'_and, haddr, BitVec.and_allOnes, reqAddr]
  · rw [reqData, BitVec.extractLsb'_and, hdata]
    exact BitVec.and_zero

/-- Settles O2: the word is packed from its own fields, for a read with WDATA = 0 in place of the word's. -/
theorem encodeDecodedRequest : Obligations.EncodeDecodedRequest := by
  refine fun w => ⟨fun hwe => ?_, fun hwe => ?_⟩
  · have hword := packReq_fields w
    rw [hwe] at hword
    simp only [decodeReq, hwe, if_true, encode, hword]
  · obtain ⟨hmwe, hmsize, hmaddr, hmdata⟩ := fields_and_mask w
    have hword := packReq_fields (w &&& 0x1FFFF00000000)
    rw [hmwe, hmsize, hmaddr, hmdata, hwe] at hword
    simp only [decodeReq, hwe, Bool.false_eq_true, if_false, encode, hword]

/-! ### The command words -/

theorem cmdRsv_append_cmdOp (w : Word) : cmdRsv w ++ cmdOp w = w := BitVec.extractLsb'_append_extractLsb'

/-- The words that decode are the command words, eight of them (spec/30_encoding.md R73, R74). -/
theorem eq_commandWord_of_decodeCmd {w : Word} {i : Instr} (h : decodeCmd w = .instr i) : w = commandWord i := by
  rw [← cmdRsv_append_cmdOp w]
  unfold decodeCmd at h
  split_ifs at h with hrsv hop hop hop hop hop hop hop hop <;> cases h <;>
    (rw [not_not.mp hrsv, hop]; rfl)

theorem commandWord_lt (i : Instr) : (commandWord i).toNat < 8 := by
  cases i <;> simp [commandWord]

/-- Every word from 8 on is illegal: OP 8 to 15, or a reserved bit set (spec/30_encoding.md R74, R75). -/
theorem decodeCmd_of_le {w : Word} (h : 8 ≤ w.toNat) : decodeCmd w = .reject .illegalCmd := by
  cases hdec : decodeCmd w with
  | instr i =>
    have hlt := commandWord_lt i
    rw [← eq_commandWord_of_decodeCmd hdec] at hlt
    omega
  | reject r => cases r; rfl

theorem decoding_of_eq_commandWord {w : Word} {i : Instr} (hi : isCommand i) (h : w = commandWord i) :
    decodeCmd w = .instr i ∧ stagesOfWord w = stagesOf i := by
  have hdec : decodeCmd w = .instr i := h ▸ decodeCmd_commandWord hi
  exact ⟨hdec, by simp only [stagesOfWord, hdec]⟩

/-- The CMD write of an illegal word on an idle block (spec/30_encoding.md R74, spec/60_exceptions.md R146). -/
theorem hostWrite_illegalCmd {w : Word} {s : State} (hw : decodeCmd w = .reject .illegalCmd) (hb : busy s = false) :
    hostWrite 2 0x010 w s = rejected .illegalCmd 0x010 true s := by
  have hloc : locate 0x010 = some .cmd := rfl
  have hcheck : accessCheck true 2 0x010 w s = .error .illegalCmd := by
    simp [accessCheck, hloc, hb, readOnly, outOfRange, illegalCommand, hw]
  simp only [hostWrite, hcheck, raiseError_eq_rejected]

/-- Settles O3: the eight command words decode to their commands, and no other word is one. -/
theorem commandWordDecoding : Obligations.CommandWordDecoding := by
  refine fun w => ⟨decoding_of_eq_commandWord (i := .nop) (by decide), decoding_of_eq_commandWord (i := .window) (by decide),
    decoding_of_eq_commandWord (i := .autocorr) (by decide), decoding_of_eq_commandWord (i := .condition) (by decide),
    decoding_of_eq_commandWord (i := .recurse) (by decide), decoding_of_eq_commandWord (i := .levinson) (by decide),
    decoding_of_eq_commandWord (i := .analyze) (by decide), decoding_of_eq_commandWord (i := .softreset) (by decide),
    fun hw => ⟨decodeCmd_of_le hw, fun s hpend => ?_⟩⟩
  rw [exec_regWrite, hostWrite_illegalCmd (decodeCmd_of_le hw) (busy_eq_false.mpr hpend)]

/-- What a word written out stands for, from its encoding. -/
theorem decode_of_encode_eq {c : CodeWord} {i : Instr} (hwf : i.wellFormed = true) (h : encode i = c) :
    decode c = .instr i := h ▸ decodeEncodeAgree i hwf

/-- Settles O4: the first four words are the encodings of what they stand for; the last has a reserved bit set. -/
theorem specWordsDecode : Obligations.SpecWordsDecode :=
  ⟨decode_of_encode_eq rfl rfl, decode_of_encode_eq rfl rfl, decode_of_encode_eq rfl rfl, decode_of_encode_eq rfl rfl,
    decodeCmd_of_le (by decide)⟩

/-! ### The listing -/

/-- The written location of an offset assembles to the offset (spec/30_encoding.md R81, R84). -/
theorem locSyntaxOffset_locSyntaxOf {a : Nat} (h : a < 0x4000) : locSyntaxOffset (locSyntaxOf a) = a := by
  unfold locSyntaxOf
  cases hloc : locate a with
  | some l => exact (locate_sound hloc).1
  | none => exact (BitVec.toNat_ofNat a 14).trans (Nat.mod_eq_of_lt h)

/-- Settles O5: a line keeps the fields of its word, a read's WDATA being 0. -/
theorem assembleDisassembleAgree : Obligations.AssembleDisassembleAgree := by
  intro w hw
  have hword := packReq_fields w
  unfold disassemble
  cases hwe : reqWe w with
  | true =>
    rw [hwe] at hword
    simp only [if_true, assemble, locSyntaxOffset_locSyntaxOf (reqAddr_lt w), hword]
  | false =>
    have hdata : reqData w = 0 := hw.resolve_left (by simp [hwe])
    rw [hwe, hdata] at hword
    simp only [Bool.false_eq_true, if_false, assemble, locSyntaxOffset_locSyntaxOf (reqAddr_lt w), hword]

end Sys2Proof.Machine
end

section
/-! The pseudo-instruction `wait`: the host polls STATUS until the engine is idle (spec/30_encoding.md R82). -/

namespace Sys2Proof.Machine

/-- A scheduled turn of the host (spec/00_scope.md R13; log entry 1). -/
theorem step_scheduled_host {s : State} {ts : List Turn} (h : s.schedule = .host :: ts) :
    step s = performActivity (hostTurn { s with schedule := ts }) := by
  rw [step_eq_performActivity]
  simp only [nextActivity, h, takeTurn]

/-- The host's turn on `wait`: one read of STATUS, the statement left in the program while BUSY (spec/30_encoding.md R82). -/
theorem hostTurn_wait {s : State} {rest : List HostStmt} (hpin : s.pinHeld = false) (hprog : s.program = .wait :: rest) :
    hostTurn s = .run (.regRead 2 0x014) (if busy s then s else { s with program := rest }) := by
  simp only [hostTurn, hprog, hpin, Bool.false_eq_true, if_false]

/-- A read of STATUS is always answered with its word (spec/10_state.md R41, spec/40_host_access.md R87). -/
theorem exec_read_status (s : State) :
    exec (.regRead 2 0x014) s = .next { s with response := some { err := false, rdata := statusWord s } } :=
  congrArg Host.Outcome.next (hostRead_of_ok (accessCheck_read_allowedWhileBusy (.inl rfl) s))

/-- Bit 0 of STATUS is BUSY (spec/10_state.md R27). -/
theorem statusWord_bit0 (s : State) : (statusWord s).getLsbD 0 = busy s := by
  rw [statusWord, BitVec.getLsbD_append]
  cases busy s <;> rfl

/-- Settles O54: the turn is one read of STATUS, and BUSY decides whether `wait` stays. -/
theorem waitPollsStatus : Obligations.WaitPollsStatus := by
  intro s rest ts hpin hprog hsch
  have hturn := hostTurn_wait (s := { s with schedule := ts }) hpin hprog
  have hbusy : busy { s with schedule := ts } = busy s := rfl
  refine ⟨fun hpend => ?_, fun hpend => ?_, by rw [statusWord_bit0, busy_eq_true]⟩
  · rw [step_scheduled_host hsch, hturn, hbusy, busy_eq_true.mpr hpend]
    exact exec_read_status { s with schedule := ts }
  · rw [step_scheduled_host hsch, hturn, hbusy, busy_eq_false.mpr hpend]
    exact exec_read_status { s with schedule := ts, program := rest }

end Sys2Proof.Machine
end

section
/-! The host's accesses location by location: what a read is answered with (spec/40_host_access.md R87) and what a write leaves
(R88 to R96). -/

namespace Sys2Proof.Machine

open Sys2Proof.Claim

/-! ### Accesses that pass the check -/

/-- On an idle block every location can be read (spec/60_exceptions.md R146). -/
theorem accessCheck_read_of_idle {l : Loc} {s : State} (hl : locExists l = true) (hidle : s.pending = []) :
    accessCheck false 2 (locOffset l) 0 s = .ok l := by
  simp [accessCheck, locOffset_mod_four, locate_locOffset hl, busy_eq_false.mpr hidle]

/-- A read that passes the check is answered with the value of its location (spec/40_host_access.md R85). -/
theorem readsAs_of_ok {l : Loc} {s : State} (h : accessCheck false 2 (locOffset l) 0 s = .ok l) :
    ReadsAs s (locOffset l) (readValue l s) :=
  congrArg Host.Outcome.next (hostRead_of_ok h)

theorem readsAs_of_idle {l : Loc} {s : State} (hl : locExists l = true) (hidle : s.pending = []) :
    ReadsAs s (locOffset l) (readValue l s) :=
  readsAs_of_ok (accessCheck_read_of_idle hl hidle)

/-- A write that passes the check has its effect and is answered (spec/40_host_access.md R86). -/
theorem exec_regWrite_of_ok {size : BitVec 2} {addr : Nat} {v : Word} {s : State} {l : Loc}
    (h : accessCheck true size addr v s = .ok l) :
    exec (.regWrite size addr v) s = .next (answered (writeLoc l v s)) :=
  congrArg Host.Outcome.next (hostWrite_of_ok h)

theorem exec_regWrite_of_error {size : BitVec 2} {addr : Nat} {v : Word} {s : State} {c : ErrCode}
    (h : accessCheck true size addr v s = .error c) :
    exec (.regWrite size addr v) s = .next (rejected c addr true s) := by
  rw [exec_regWrite, hostWrite, h, ← raiseError_eq_rejected]

/-- A write of a location while a command is in progress is a BUSY error (spec/10_state.md R41). -/
theorem exec_regWrite_busy {l : Loc} {s : State} (hl : locExists l = true) (hpend : s.pending ≠ []) (v : Word) :
    exec (.regWrite 2 (locOffset l) v) s = .next (rejected .busy (locOffset l) true s) := by
  refine exec_regWrite_of_error ?_
  simp [accessCheck, locOffset_mod_four, locate_locOffset hl, busy_eq_true.mpr hpend, allowedWhileBusy]

/-- On an idle block a write that no check on its target or its value rejects is accepted (spec/60_exceptions.md R146). -/
theorem exec_regWrite_of_idle {l : Loc} {v : Word} {s : State} (hl : locExists l = true) (hidle : s.pending = [])
    (hwritable : readOnly l = false) (hrange : outOfRange l v = false) (hlegal : illegalCommand l v = false) :
    exec (.regWrite 2 (locOffset l) v) s = .next (answered (writeLoc l v s)) := by
  refine exec_regWrite_of_ok ?_
  simp [accessCheck, locOffset_mod_four, locate_locOffset hl, busy_eq_false.mpr hidle, hwritable, hrange, hlegal]

/-- A write of CFG_N or CFG_P that is out of range (spec/60_exceptions.md R146). -/
theorem exec_regWrite_outOfRange {l : Loc} {v : Word} {s : State} (hl : locExists l = true) (hidle : s.pending = [])
    (hwritable : readOnly l = false) (hrange : outOfRange l v = true) :
    exec (.regWrite 2 (locOffset l) v) s = .next (rejected .badParam (locOffset l) true s) := by
  refine exec_regWrite_of_error ?_
  simp [accessCheck, locOffset_mod_four, locate_locOffset hl, busy_eq_false.mpr hidle, hwritable, hrange]

/-! ### The words of CTRL, STATUS and ERRINFO as numbers -/

theorem toNat_append_eq_add {m n : Nat} (x : BitVec m) (y : BitVec n) : (x ++ y).toNat = x.toNat * 2 ^ n + y.toNat := by
  rw [BitVec.toNat_append, ← Nat.shiftLeft_add_eq_or_of_lt y.isLt, Nat.shiftLeft_eq]

/-- A word is a sum when its number is, all 32 bits of it. -/
theorem eq_ofNat_of_toNat_eq {w : Word} {n : Nat} (h : w.toNat = n) : w = BitVec.ofNat 32 n := by
  rw [← h, BitVec.ofNat_toNat, BitVec.setWidth_eq]

/-- The fields of CTRL at their bits (spec/40_host_access.md R87). -/
theorem ctrlWord_eq_sum (s : State) :
    ctrlWord s = BitVec.ofNat 32 (s.ie.toNat * 4 + s.infmt.toNat * 2 + s.winen.toNat) := by
  apply eq_ofNat_of_toNat_eq
  simp only [ctrlWord, toNat_append_eq_add, BitVec.toNat_ofBool, BitVec.ofNat_eq_ofNat, BitVec.toNat_zero]
  omega

/-- The fields of STATUS at their bits (spec/40_host_access.md R87). -/
theorem statusWord_eq_sum (s : State) :
    statusWord s = BitVec.ofNat 32
      ((stageField s).toNat * 256 + s.nonfinite.toNat * 32 + s.unstable.toNat * 16 + s.degen.toNat * 8 + s.zero.toNat * 4
        + s.done.toNat * 2 + (busy s).toNat) := by
  apply eq_ofNat_of_toNat_eq
  simp only [statusWord, toNat_append_eq_add, BitVec.toNat_ofBool, BitVec.ofNat_eq_ofNat, BitVec.toNat_zero]
  omega

/-- The numbers of the codes are those of spec/60_exceptions.md R143. -/
theorem errBits_toNat (c : ErrCode) : (errBits c).toNat = errNumber c := by
  cases c <;> rfl

/-- The fields of ERRINFO at their bits (spec/40_host_access.md R87). -/
theorem errInfoWord_eq_sum (s : State) :
    errInfoWord s = BitVec.ofNat 32
      (s.eovr.toNat * 2 ^ 31 + s.ewr.toNat * 2 ^ 30 + s.eaddr.toNat * 2 ^ 16 + errNumber s.ecode) := by
  apply eq_ofNat_of_toNat_eq
  simp only [errInfoWord, toNat_append_eq_add, BitVec.toNat_ofBool, BitVec.ofNat_eq_ofNat, BitVec.toNat_zero, errBits_toNat]
  omega

/-- Settles O10: every location exists and is read on an idle block, STATUS and ERRINFO on every block. -/
theorem readValuePerLocation : Obligations.ReadValuePerLocation := by
  intro s
  refine ⟨?_, ?_, fun hidle => ?_⟩
  · rw [← statusWord_eq_sum]
    exact readsAs_of_ok (accessCheck_read_allowedWhileBusy (.inl rfl) s)
  · rw [← errInfoWord_eq_sum]
    exact readsAs_of_ok (accessCheck_read_allowedWhileBusy (.inr rfl) s)
  · have hread : ∀ l, locExists l = true → ReadsAs s (locOffset l) (readValue l s) := fun l hl => readsAs_of_idle hl hidle
    refine ⟨hread .id rfl, ?_, hread .cfgN rfl, hread .cfgP rfl, hread .cmd rfl, hread .nfAdd rfl, hread .nfMul rfl, hread .err rfl,
      fun k hk => ⟨hread (.ac k) (decide_eq_true hk), hread (.lagw k) (decide_eq_true hk)⟩,
      fun j hj => ⟨hread (.lpc j) (decide_eq_true hj), hread (.rc j) (decide_eq_true hj)⟩,
      fun i hi => ⟨hread (.x i) (decide_eq_true hi), hread (.win i) (decide_eq_true hi), hread (.xw i) (decide_eq_true hi)⟩⟩
    rw [← ctrlWord_eq_sum]
    exact hread .ctrl rfl

/-! ### Writes of the registers -/

/-- Settles O11: CTRL is no checked register, and irq is the new IE with the DONE there was. -/
theorem writeCtrlSetsThreeBits : Obligations.WriteCtrlSetsThreeBits := fun v _ =>
  ⟨fun hidle => ⟨_, exec_regWrite_of_idle (l := .ctrl) rfl hidle rfl rfl rfl, rfl, by
      simp [irq, answered, writeLoc]⟩,
    fun hpend => exec_regWrite_busy (l := .ctrl) rfl hpend v⟩

/-- Settles O12: the range is the last check a write of these two registers can fail. -/
theorem writeConfigChecksRange : Obligations.WriteConfigChecksRange := fun _ _ hidle =>
  ⟨fun h => exec_regWrite_of_idle (l := .cfgN) rfl hidle rfl (by simpa [outOfRange] using h) rfl,
    fun h => exec_regWrite_outOfRange (l := .cfgN) rfl hidle rfl (by simpa [outOfRange, imp_iff_not_or] using h),
    fun h => exec_regWrite_of_idle (l := .cfgP) rfl hidle rfl (by simpa [outOfRange] using h) rfl,
    fun h => exec_regWrite_outOfRange (l := .cfgP) rfl hidle rfl (by simpa [outOfRange, imp_iff_not_or] using h)⟩

/-- Settles O13: an accepted write of STATUS is `clearFlags`. -/
theorem writeStatusClearsNamedFlags : Obligations.WriteStatusClearsNamedFlags := fun v _ =>
  ⟨fun hidle => exec_regWrite_of_idle (l := .status) rfl hidle rfl rfl rfl,
    fun hpend => exec_regWrite_busy (l := .status) rfl hpend v⟩

/-- Settles O14: an accepted write of ERRINFO is `clearErrInfo`. -/
theorem writeErrInfoClearsIt : Obligations.WriteErrInfoClearsIt := fun v _ =>
  ⟨fun hidle => exec_regWrite_of_idle (l := .errinfo) rfl hidle rfl rfl rfl,
    fun hpend => exec_regWrite_busy (l := .errinfo) rfl hpend v⟩

/-- Settles O17: the floor constants are no checked registers. -/
theorem writeFloorConstantsStoresThem : Obligations.WriteFloorConstantsStoresThem := fun _ _ hidle =>
  ⟨exec_regWrite_of_idle (l := .nfAdd) rfl hidle rfl rfl rfl,
    exec_regWrite_of_idle (l := .nfMul) rfl hidle rfl rfl rfl⟩

/-! ### The issue of a command -/

/-- What a legal command word decodes to is a command (spec/30_encoding.md R74). -/
theorem isCommand_of_decodeCmd {v : Word} {i : Instr} (h : decodeCmd v = .instr i) : isCommand i := by
  have hne : stagesOfWord v ≠ [] := stagesOfWord_ne_nil (by simp [h])
  simpa only [stagesOfWord, h] using hne

/-- Settles O15: the legal word is the command's own, whose CMD write an idle block accepts. -/
theorem acceptanceStartsTheCommand : Obligations.AcceptanceStartsTheCommand := by
  intro v i s hidle hdec
  have hi : isCommand i := isCommand_of_decodeCmd hdec
  obtain rfl := eq_commandWord_of_decodeCmd hdec
  refine ⟨?_, ?_, hi⟩
  · rw [exec_regWrite, hostWrite_command hi (busy_eq_false.mpr hidle)]
    rfl
  · rw [exec_command hi, issueCommand, exec_regWrite]

/-- Settles O34: the command is its CMD write, which the busy block rejects. -/
theorem commandWhileBusyIsTurnedAway : Obligations.CommandWhileBusyIsTurnedAway := by
  intro i s hi hpend
  rw [exec_command hi, issueCommand_busy (busy_eq_true.mpr hpend), raiseError_eq_rejected]

/-! ### Writes of the arrays -/

/-- The arrays that the host writes (spec/40_host_access.md R89). -/
def HostArray (l : Loc) : Prop := (∃ k, l = .ac k) ∨ (∃ k, l = .lagw k) ∨ (∃ i, l = .x i) ∨ ∃ i, l = .win i

theorem writeLoc_of_hostArray {l : Loc} (h : HostArray l) (v : Word) (s : State) :
    writeLoc l v s = storeWord (locOffset l) v s := by
  obtain ⟨k, rfl⟩ | ⟨k, rfl⟩ | ⟨i, rfl⟩ | ⟨i, rfl⟩ := h <;> rfl

theorem exec_regWrite_of_hostArray {l : Loc} {s : State} (h : HostArray l) (hl : locExists l = true) (hidle : s.pending = [])
    (v : Word) : exec (.regWrite 2 (locOffset l) v) s = .next (answered (storeWord (locOffset l) v s)) := by
  rw [← writeLoc_of_hostArray h]
  obtain ⟨k, rfl⟩ | ⟨k, rfl⟩ | ⟨i, rfl⟩ | ⟨i, rfl⟩ := h <;>
    exact exec_regWrite_of_idle hl hidle rfl rfl rfl

/-- A word stored is read back (spec/20_memory.md R54). -/
theorem readWord_storeWord (a : Nat) (v : Word) (s : State) : (storeWord a v s).mem.readWord a = v :=
  Memory.readWord_storeWords_inside (i := 0) (ws := [v]) (by simp)

/-- Settles O16: the write is the store of one word. -/
theorem writeArrayEntryStoresIt : Obligations.WriteArrayEntryStoresIt := fun l v s hidle hl h =>
  ⟨_, exec_regWrite_of_hostArray h hl hidle v, readWord_storeWord (locOffset l) v s,
    fun _ ha => Memory.read_storeWords_outside (ws := [v]) ha, rfl⟩

/-! ### Reading back -/

/-- A written CTRL holds the three bits of the word (spec/40_host_access.md R88). -/
theorem ctrlWord_writeCtrl (v : Word) (s : State) : ctrlWord (writeCtrl v s) = v &&& 0x00000007 := by
  apply BitVec.eq_of_getLsbD_eq
  intro i hi
  simp only [ctrlWord, BitVec.append_ofBool, BitVec.getLsbD_and]
  match i with
  | 0 | 1 | 2 => simp
  | i + 3 => simp [BitVec.getLsbD_ofNat, Nat.testBit_succ]

/-- A written STATUS has lost the flags of the word and kept every other bit (spec/40_host_access.md R92). -/
theorem statusWord_clearFlags (v : Word) (s : State) :
    statusWord (clearFlags v s) = statusWord s &&& ~~~(v &&& 0x0000003E) := by
  have hstage : stageField (clearFlags v s) = stageField s := rfl
  have hbusy : busy (clearFlags v s) = busy s := rfl
  apply BitVec.eq_of_getLsbD_eq
  intro i hi
  simp only [statusWord, hstage, hbusy, BitVec.append_ofBool, BitVec.getLsbD_and, BitVec.getLsbD_not]
  match i with
  | 0 | 1 | 2 | 3 | 4 | 5 => simp
  | i + 6 =>
    have hmask : (0x0000003E : Word).getLsbD (i + 6) = false := by simp [BitVec.getLsbD_ofNat, Nat.testBit_succ]
    simp only [BitVec.getLsbD_concat_succ, hmask, hi, Bool.and_false, Bool.not_false, decide_true, Bool.and_true]

/-- The record cleared reads 0 (spec/40_host_access.md R93). -/
theorem errInfoWord_clearErrInfo (s : State) : errInfoWord (clearErrInfo s) = 0x00000000 := by
  simp [errInfoWord, errBits]

/-- The answer is no part of what is read. -/
theorem readValue_answered (l : Loc) (s : State) : readValue l (answered s) = readValue l s := by
  cases l <;> rfl

/-- A writable location but CTRL, STATUS and ERRINFO holds the written word (spec/40_host_access.md R96). -/
theorem readValue_writeLoc {l : Loc} (hwritable : readOnly l = false) (hctrl : l ≠ .ctrl) (hstatus : l ≠ .status)
    (herrinfo : l ≠ .errinfo) (v : Word) (s : State) : readValue l (writeLoc l v s) = v := by
  cases l with
  | ctrl | status | errinfo => contradiction
  | id | err | lpc j | rc j | xw i => cases hwritable
  | cmd | nfAdd | nfMul => rfl
  | cfgN | cfgP => exact (BitVec.ofNat_toNat 32 v).trans (BitVec.setWidth_eq v)
  | ac k | lagw k | x i | win i => exact readWord_storeWord _ v s

/-- Settles O18: the answered state reads as the written one, location by location. -/
theorem readBackAfterWrite : Obligations.ReadBackAfterWrite := by
  intro l v s hok
  obtain ⟨-, -, -, -, hwrite⟩ := accessCheck_ok hok
  obtain ⟨hwritable, -, -⟩ := hwrite rfl
  refine ⟨_, exec_regWrite_of_ok hok, ?_⟩
  rw [readValue_answered]
  refine ⟨?_, ?_, ?_, fun hctrl hstatus herrinfo => readValue_writeLoc hwritable hctrl hstatus herrinfo v s⟩
  · rintro rfl
    exact ctrlWord_writeCtrl v s
  · rintro rfl
    exact statusWord_clearFlags v s
  · rintro rfl
    exact errInfoWord_clearErrInfo s

end Sys2Proof.Machine
end

section
/-! WINDOW and AUTOCORR: stages that store one result list, computed from what the store leaves alone (spec/41_signal_ops.md R102
to R106). -/

namespace Sys2Proof.Machine

open Sys2Proof.Claim

/-! ### Storing the same words twice -/

theorem Memory.storeWords_storeWords {m : Memory} (h : m.wf) (base : Nat) (ws : List Word) :
    (m.storeWords base ws).storeWords base ws = m.storeWords base ws := by
  have hwf : (m.storeWords base ws).wf := Memory.wf_storeWords h base ws
  refine Memory.ext_of_wf (Memory.wf_storeWords hwf base ws) hwf fun a => ?_
  by_cases hin : base ≤ a ∧ a < base + (ws.flatMap wordBytes).length
  · simp only [Memory.storeWords, Memory.read_store_inside hin.1 hin.2]
  · exact Memory.read_store_outside (by omega)

theorem storeArray_storeArray {s : State} (h : s.mem.wf) (base : Nat) (ws : List Word) :
    storeArray base ws (storeArray base ws s) = storeArray base ws s :=
  congrArg (fun m => { s with mem := m }) (Memory.storeWords_storeWords h base ws)

/-- A word outside an array just written. -/
theorem wordAt_storeArray_outside {base a : Nat} {ws : List Word} (s : State) (h : a + 4 ≤ base ∨ base + 4 * ws.length ≤ a) :
    wordAt (storeArray base ws s) a = wordAt s a :=
  Memory.readWord_storeWords_outside h

/-! ### Stages that store one list of numbers -/

/-- A list of numbers computed from the state, stored from `base` on with zeros up to `len` entries, NONFINITE noted. -/
def storeResult (base len : Nat) (result : State → List Number) (s : State) : State :=
  noteNonfinite (someNonfinite (result s)) (storeArray base (padTo len (result s)) s)

theorem performStage_window (s : State) : performStage .window s = storeResult xwBase Config.nMax windowedSignal s := rfl

theorem performStage_autocorr (s : State) : performStage .autocorr s = storeResult acBase (Config.pMax + 1) rawLags s := rfl

/-- The windowed signal comes from X and WIN, below XW (spec/10_state.md R21). -/
theorem windowedSignal_storeArray_xw {s : State} (hn : s.n ≤ 1024) (ws : List Word) :
    windowedSignal (storeArray xwBase ws s) = windowedSignal s := by
  refine List.map_congr_left fun i hi => ?_
  have hlt : i < s.n := List.mem_range.mp hi
  have hx : xAt (storeArray xwBase ws s) i = xAt s i :=
    wordAt_storeArray_outside s (by simp only [locOffset, xBase, xwBase]; omega)
  have hwin : winAt (storeArray xwBase ws s) i = winAt s i :=
    wordAt_storeArray_outside s (by simp only [locOffset, winBase, xwBase]; omega)
  simp only [windowedSample, storeArray_winen, storeArray_infmt, hx, hwin]

/-- The lags come from XW, above AC (spec/10_state.md R21). -/
theorem rawLags_storeArray_ac {ws : List Word} (hlen : ws.length ≤ Config.pMax + 1) (s : State) :
    rawLags (storeArray acBase ws s) = rawLags s := by
  have hsignal : signal (storeArray acBase ws s) = signal s := by
    refine List.map_congr_left fun i _ => wordAt_storeArray_outside s ?_
    simp only [locOffset, acBase, xwBase, Config.pMax] at hlen ⊢
    omega
  simp only [rawLags, storeArray_p, hsignal]

/-! ### Commands of one such stage -/

/-- A command of one stage, issued on an idle block, completes with that stage (spec/43_control_ops.md R136, R137). -/
theorem completes_of_one_stage {i : Instr} {st : Stage} {s : State} (hstages : stagesOf i = [st]) (hst : st ≠ .softreset)
    (hidle : s.pending = []) : Completes i s (completeStage [] (performStage st (accepted i s))) := by
  have hi : isCommand i := by simp [isCommand, hstages]
  constructor
  · rw [exec_command hi, issueCommand_idle hi (busy_eq_false.mpr hidle)]
    rfl
  · rw [hstages]
    exact engineStep_stage (show (accepted i s).pending = [st] from hstages) hst

/-- The command accepted again: its words are stored, and all that acceptance sets is set again (spec/40_host_access.md R95). -/
theorem accepted_completeStage_storeResult (i : Instr) (base len : Nat) (result : State → List Number) (s : State) :
    accepted i (completeStage [] (storeResult base len result (accepted i s)))
      = storeArray base (padTo len (result (accepted i s))) (accepted i s) := rfl

/-- A command of one stage whose result its own store leaves as it was: the second time it stores the same words again. -/
theorem exists_completes_twice {i : Instr} {st : Stage} {s : State} {base len : Nat} {result : State → List Number}
    (hstages : stagesOf i = [st]) (hst : st ≠ .softreset) (hidle : s.pending = []) (hwf : s.mem.wf)
    (hperform : ∀ u, performStage st u = storeResult base len result u)
    (hresult : ∀ ws : List Word, ws.length = len → result (storeArray base ws (accepted i s)) = result (accepted i s)) :
    ∃ t, Completes i s t ∧ Completes i t t := by
  have hfirst := completes_of_one_stage hstages hst hidle
  rw [hperform] at hfirst
  refine ⟨_, hfirst, ?_⟩
  have hsecond := completes_of_one_stage (s := completeStage [] (storeResult base len result (accepted i s))) hstages hst rfl
  have hagain : storeResult base len result (storeArray base (padTo len (result (accepted i s))) (accepted i s))
      = storeResult base len result (accepted i s) := by
    unfold storeResult
    rw [hresult _ (padTo_length ..), storeArray_storeArray (s := accepted i s) hwf]
  rwa [hperform, accepted_completeStage_storeResult, hagain] at hsecond

/-- Settles O48: WINDOW writes none of X and WIN, AUTOCORR none of XW. -/
theorem windowAndAutocorrAreIdempotent : Obligations.WindowAndAutocorrAreIdempotent := by
  intro s hidle hwf hn _
  constructor
  · exact exists_completes_twice (i := .window) rfl (by decide) hidle hwf performStage_window fun ws _ =>
      windowedSignal_storeArray_xw (s := accepted .window s) hn ws
  · exact exists_completes_twice (i := .autocorr) rfl (by decide) hidle hwf performStage_autocorr fun _ hlen =>
      rawLags_storeArray_ac hlen.le (accepted .autocorr s)

end Sys2Proof.Machine
end

section
/-! The signal commands from their issue to their end: NOP, WINDOW and AUTOCORR, what they store, what they note and what they
leave unchanged (spec/41_signal_ops.md R101 to R106). -/

namespace Sys2Proof.Machine

open Sys2Proof.Claim

/-! ### NOP -/

/-- Settles O33: the one stage of NOP leaves what acceptance left, and completing it sets DONE. -/
theorem nopCompletes : Obligations.NopCompletes := by
  intro s hidle
  have hcompletes := completes_of_one_stage (i := .nop) (st := .nop) rfl (by decide) hidle
  have hstate : completeStage [] (performStage .nop (accepted .nop s)) = answered { s with
      cmd := 0x00000000, done := true, zero := false, degen := false, unstable := false, nonfinite := false } := by
    cases s
    subst hidle
    rfl
  rwa [hstate] at hcompletes

/-! ### Entries of a stored result -/

theorem getD_map_range (f : Nat → Number) (count i : Nat) :
    ((List.range count).map f).getD i F32.zero = if i < count then f i else F32.zero := by
  split
  next h => simp [List.getD_eq_getElem?_getD, h]
  next h => simp [List.getD_eq_getElem?_getD, Nat.le_of_not_lt h]

/-- Filling up with zeros changes no entry (spec/92_eei_decisions.md D21). -/
theorem padTo_getD {len i : Nat} (hi : i < len) (xs : List Number) : (padTo len xs).getD i 0 = xs.getD i F32.zero := by
  have htake : (padTo len xs)[i]? = (xs ++ List.replicate (len - xs.length) F32.zero)[i]? := by
    rw [padTo, List.getElem?_map, List.getElem?_take_of_lt hi]
    exact congrFun Option.map_id _
  rw [List.getD_eq_getElem?_getD, List.getD_eq_getElem?_getD, htake]
  obtain hin | hout := Nat.lt_or_ge i xs.length
  · rw [List.getElem?_append_left hin, List.getElem?_eq_getElem hin]
    rfl
  · rw [List.getElem?_append_right hout, List.getElem?_replicate_of_lt (by omega), List.getElem?_eq_none hout]
    rfl

theorem someNonfinite_map_range (f : Nat → Number) (count : Nat) :
    someNonfinite ((List.range count).map f) = true ↔ ∃ i, i < count ∧ F32.isFinite (f i) = false := by
  simp [someNonfinite]

/-! ### A command of one stage that stores a result -/

/-- The state such a command leaves, from its issue on. -/
def resultStored (i : Instr) (base len : Nat) (result : State → List Number) (s : State) : State :=
  completeStage [] (storeResult base len result (accepted i s))

/-- The state WINDOW leaves. -/
abbrev windowDone (s : State) : State := resultStored .window xwBase Config.nMax windowedSignal s

/-- The state AUTOCORR leaves. -/
abbrev autocorrDone (s : State) : State := resultStored .autocorr acBase (Config.pMax + 1) rawLags s

theorem completes_window {s : State} (hidle : s.pending = []) : Completes .window s (windowDone s) :=
  completes_of_one_stage (st := .window) rfl (by decide) hidle

theorem completes_autocorr {s : State} (hidle : s.pending = []) : Completes .autocorr s (autocorrDone s) :=
  completes_of_one_stage (st := .autocorr) rfl (by decide) hidle

section
variable (i : Instr) (base len : Nat) (result : State → List Number) (s : State)

/-- Configuration, ERRINFO, floor constants and surroundings stay (spec/20_memory.md R61). -/
theorem resultStored_commandFrame : CommandFrame (commandWord i) s (resultStored i base len result s) :=
  ⟨rfl, rfl, rfl, rfl, rfl, rfl, rfl, rfl, rfl, rfl, rfl, rfl, rfl, rfl, rfl, rfl, rfl, rfl⟩

theorem resultStored_mem :
    (resultStored i base len result s).mem = s.mem.storeWords base (padTo len (result (accepted i s))) := rfl

theorem resultStored_bytesKept : BytesKeptOutside base (base + 4 * len) s (resultStored i base len result s) := by
  intro a h
  rw [resultStored_mem, Memory.read_storeWords_outside (by rwa [padTo_length])]

/-- What only RECURSE sets stays as acceptance left it (spec/10_state.md R42). -/
theorem resultStored_recursionResults :
    (resultStored i base len result s).err = s.err ∧ (resultStored i base len result s).zero = false
      ∧ (resultStored i base len result s).degen = false ∧ (resultStored i base len result s).unstable = false :=
  ⟨rfl, rfl, rfl, rfl⟩

theorem resultStored_nonfinite : (resultStored i base len result s).nonfinite = someNonfinite (result (accepted i s)) :=
  Bool.false_or _

variable {i base len result s}

/-- The words stored are those of the result, then zeros. -/
theorem wordAt_resultStored {count k : Nat} {f : Nat → Number} (hk : k < len)
    (hresult : result (accepted i s) = (List.range count).map f) :
    wordAt (resultStored i base len result s) (base + 4 * k) = if k < count then f k else F32.zero := by
  rw [wordAt, resultStored_mem, Memory.readWord_storeWords_inside (by rwa [padTo_length]), padTo_getD hk, hresult,
    getD_map_range]

end

/-! ### WINDOW -/

theorem sampleOf_xAt (s : State) (i : Nat) : sampleOf s.infmt (xAt s i) = sample s i := by
  unfold sampleOf sample
  cases s.infmt <;> simp

theorem windowedSample_eq (s : State) (i : Nat) :
    windowedSample s i = if s.winen then F32.mul (sample s i) (winAt s i) else sample s i := by
  rw [windowedSample, sampleOf_xAt]

/-- The windowed signal comes from X, WIN, N and CTRL, which acceptance leaves alone. -/
theorem windowedSignal_accepted (s : State) :
    windowedSignal (accepted .window s) = (List.range s.n).map (windowedSample s) := rfl

theorem xwAt_window (s : State) {i : Nat} (hi : i < 1024) :
    xwAt (windowDone s) i = if i < s.n then windowedSample s i else F32.zero :=
  wordAt_resultStored hi (windowedSignal_accepted s)

theorem window_nonfinite_iff (s : State) :
    (windowDone s).nonfinite = true ↔ ∃ i, i < s.n ∧ F32.isFinite (windowedSample s i) = false := by
  rw [resultStored_nonfinite, windowedSignal_accepted, someNonfinite_map_range]

/-- Settles O35: the windowed signal is computed from what acceptance leaves alone, and stored entry by entry. -/
theorem windowWritesTheSignal : Obligations.WindowWritesTheSignal := by
  intro s hidle hn
  have hsignal : ∀ i, i < s.n → xwAt (windowDone s) i = windowedSample s i := fun i hi => by
    rw [xwAt_window s (hi.trans_le hn), if_pos hi]
  obtain ⟨herr, hzero, hdegen, hunstable⟩ := resultStored_recursionResults .window xwBase Config.nMax windowedSignal s
  refine ⟨_, completes_window hidle, resultStored_commandFrame ..,
    resultStored_bytesKept _ xwBase Config.nMax windowedSignal s, herr, hzero, hdegen, hunstable,
    fun i hi => ?_, fun i hlow hhigh => ?_, ?_⟩
  · rw [hsignal i hi, windowedSample_eq]
  · rw [xwAt_window s hhigh, if_neg (by omega)]
    rfl
  · rw [window_nonfinite_iff]
    exact exists_congr fun i => and_congr_right fun hi => by rw [hsignal i hi]

/-! ### The lag sums by index -/

/-- The products of a lag, each by its index. -/
theorem zipWith_drop_map_range (op : Number → Number → Number) (x : Nat → Number) (n k : Nat) :
    List.zipWith op (((List.range n).map x).drop k) ((List.range n).map x)
      = (List.range (n - k)).map fun j => op (x (k + j)) (x (k + j - k)) := by
  apply List.ext_getElem
  · simp
  · intro j _ _
    simp

theorem lagSum_signal (s : State) (k : Nat) : lagSum (signal s) k = lagByIndex (xwAt s) s.n k := by
  rw [lagSum, signal, zipWith_drop_map_range, List.foldl_map, lagByIndex]

/-- A lag not shorter than the signal has no products. -/
theorem lagByIndex_of_le (x : Nat → Number) {n k : Nat} (h : n ≤ k) : lagByIndex x n k = F32.zero := by
  rw [lagByIndex, Nat.sub_eq_zero_of_le h]
  rfl

/-- One more sample adds one more rounded product (spec/41_signal_ops.md R105). -/
theorem lagByIndex_succ (x : Nat → Number) {n k : Nat} (h : k ≤ n) :
    lagByIndex x (n + 1) k = F32.add (lagByIndex x n k) (F32.mul (x n) (x (n - k))) := by
  rw [lagByIndex, Nat.succ_sub h, List.range_succ, List.foldl_append, List.foldl_cons, List.foldl_nil,
    Nat.add_sub_cancel' h, lagByIndex]

/-! ### AUTOCORR -/

/-- The lags come from the signal and P, which acceptance leaves alone. -/
theorem rawLags_accepted (s : State) :
    rawLags (accepted .autocorr s) = (List.range (s.p + 1)).map (lagByIndex (xwAt s) s.n) :=
  List.map_congr_left fun k _ => lagSum_signal (accepted .autocorr s) k

theorem acAt_autocorr (s : State) {k : Nat} (hk : k ≤ 16) :
    acAt (autocorrDone s) k = if k < s.p + 1 then lagByIndex (xwAt s) s.n k else F32.zero :=
  wordAt_resultStored (Nat.lt_succ_of_le hk) (rawLags_accepted s)

theorem autocorr_nonfinite_iff (s : State) :
    (autocorrDone s).nonfinite = true ↔ ∃ k, k < s.p + 1 ∧ F32.isFinite (lagByIndex (xwAt s) s.n k) = false := by
  rw [resultStored_nonfinite, rawLags_accepted, someNonfinite_map_range]

/-- Settles O36: every stored lag is the sum by index, which has no terms from lag N on. -/
theorem autocorrWritesTheLags : Obligations.AutocorrWritesTheLags := by
  intro s hidle _ hp
  have hlag : ∀ k, k ≤ s.p → acAt (autocorrDone s) k = lagByIndex (xwAt s) s.n k := fun k hk => by
    rw [acAt_autocorr s (hk.trans hp), if_pos (Nat.lt_succ_of_le hk)]
  obtain ⟨herr, hzero, hdegen, hunstable⟩ := resultStored_recursionResults .autocorr acBase (Config.pMax + 1) rawLags s
  refine ⟨_, completes_autocorr hidle, resultStored_commandFrame ..,
    resultStored_bytesKept _ acBase (Config.pMax + 1) rawLags s, herr, hzero, hdegen, hunstable,
    hlag, fun k hlow hhigh => ?_, fun k hlow hhigh => ?_, ?_⟩
  · rw [acAt_autocorr s hhigh, lagByIndex_of_le _ hlow, ite_self]
    rfl
  · rw [acAt_autocorr s hhigh, if_neg (by omega)]
    rfl
  · rw [autocorr_nonfinite_iff]
    refine exists_congr fun k => ?_
    rw [Nat.lt_succ_iff]
    exact and_congr_right fun hk => by rw [hlag k hk]

/-! ### Lag 0 -/

theorem F32.isNaN_add {a b : Number} (h : F32.isNaN a = true ∨ F32.isNaN b = true) : F32.isNaN (F32.add a b) = true := by
  rw [F32.add, F32.addOr_of_isNaN _ h, F32.isNaN_nanOf]

theorem F32.isNaN_mul {a b : Number} (h : F32.isNaN a = true ∨ F32.isNaN b = true) : F32.isNaN (F32.mul a b) = true := by
  rw [F32.mul_of_isNaN h, F32.isNaN_nanOf]

/-- Neither negative nor −0; a NaN has no sign to speak of. -/
def F32.NotNegative (x : Number) : Prop := F32.isNaN x = true ∨ F32.sign x = false

/-- A square is not negative: its operands have one sign. -/
theorem F32.notNegative_mul_self (x : Number) : F32.NotNegative (F32.mul x x) := by
  cases hnan : F32.isNaN x with
  | true => exact .inl (F32.isNaN_mul (.inl hnan))
  | false =>
    right
    cases hinf : F32.isInf x with
    | true =>
      have hzero := F32.isZero_of_isInf hinf
      rw [F32.mul_of_isInf hnan hnan (.inl hinf), if_neg (by simp [hzero]), F32.sign_pack_infMag, bne_self_eq_false]
    | false =>
      have hfin := F32.isFinite_of_not hnan hinf
      rw [F32.mul_finite hfin hfin, F32.sign_round, bne_self_eq_false]

theorem F32.signedUnits_of_sign {x : Number} (h : F32.sign x = false) : F32.signedUnits x = F32.units x := by
  rw [F32.signedUnits, h]
  rfl

/-- Without negative operands an exact sum of 0 is +0, and every other sum is positive. -/
theorem F32.sign_add_of_sign {a b : Number} (hnana : F32.isNaN a = false) (hnanb : F32.isNaN b = false)
    (ha : F32.sign a = false) (hb : F32.sign b = false) : F32.sign (F32.add a b) = false := by
  unfold F32.add
  cases hinfa : F32.isInf a <;> cases hinfb : F32.isInf b
  case true.true => rwa [F32.addOr_inf_inf _ hinfa hinfb, if_pos (ha.trans hb.symm)]
  case true.false => rwa [F32.addOr_inf_finite _ hinfa (F32.isFinite_of_not hnanb hinfb)]
  case false.true => rwa [F32.addOr_finite_inf _ (F32.isFinite_of_not hnana hinfa) hinfb]
  case false.false =>
    have hnonneg : ¬((F32.units a : Int) + F32.units b < 0) := by omega
    rw [F32.addOr_finite _ (F32.isFinite_of_not hnana hinfa) (F32.isFinite_of_not hnanb hinfb), F32.signedUnits_of_sign ha,
      F32.signedUnits_of_sign hb]
    split
    next => rw [F32.sign_pack_zero, ha, Bool.false_and]
    next => rw [F32.sign_round, decide_eq_false hnonneg]

theorem F32.NotNegative.add {a b : Number} (ha : F32.NotNegative a) (hb : F32.NotNegative b) :
    F32.NotNegative (F32.add a b) := by
  by_cases hnan : F32.isNaN a = true ∨ F32.isNaN b = true
  · exact .inl (F32.isNaN_add hnan)
  · obtain ⟨hnana, hnanb⟩ := not_or.mp hnan
    exact .inr (F32.sign_add_of_sign (Bool.eq_false_of_not_eq_true hnana) (Bool.eq_false_of_not_eq_true hnanb)
      (ha.resolve_left hnana) (hb.resolve_left hnanb))

/-- A sum of squares is not negative (spec/41_signal_ops.md R106). -/
theorem notNegative_lagByIndex_zero (x : Nat → Number) (n : Nat) : F32.NotNegative (lagByIndex x n 0) := by
  induction n with
  | zero => exact .inr (by rw [lagByIndex_of_le x le_rfl]; rfl)
  | succ n ih =>
    rw [lagByIndex_succ x (Nat.zero_le n)]
    exact ih.add (F32.notNegative_mul_self (x n))

/-- A NaN among the samples stays in the sum (spec/41_signal_ops.md R106). -/
theorem isNaN_lagByIndex_zero {x : Nat → Number} {n i : Nat} (hi : i < n) (hnan : F32.isNaN (x i) = true) :
    F32.isNaN (lagByIndex x n 0) = true := by
  induction n with
  | zero => exact absurd hi (Nat.not_lt_zero i)
  | succ n ih =>
    rw [lagByIndex_succ x (Nat.zero_le n)]
    obtain hlt | rfl := Nat.lt_succ_iff_lt_or_eq.mp hi
    · exact F32.isNaN_add (.inl (ih hlt))
    · exact F32.isNaN_add (.inr (F32.isNaN_mul (.inl hnan)))

/-- Settles O37: lag 0 is the sum of the squares of the samples. -/
theorem autocorrLagZeroIsNotNegative : Obligations.AutocorrLagZeroIsNotNegative := by
  intro s hidle
  refine ⟨_, completes_autocorr hidle, ?_⟩
  rw [acAt_autocorr s (Nat.zero_le 16), if_pos s.p.succ_pos]
  exact ⟨notNegative_lagByIndex_zero _ _, fun ⟨_, hi, hnan⟩ => isNaN_lagByIndex_zero hi hnan⟩

/-! ### NaN payloads -/

/-- An operation that gives a NaN for a NaN keeps numbers the same but for NaN payloads. -/
theorem sameNumber_op {op : Number → Number → Number}
    (hop : ∀ {a b : Number}, F32.isNaN a = true ∨ F32.isNaN b = true → F32.isNaN (op a b) = true) {a a' b b' : Number}
    (ha : SameNumber a a') (hb : SameNumber b b') : SameNumber (op a b) (op a' b') := by
  obtain rfl | ⟨hnan, hnan'⟩ := ha
  · obtain rfl | ⟨hnan, hnan'⟩ := hb
    · exact .inl rfl
    · exact .inr ⟨hop (.inr hnan), hop (.inr hnan')⟩
  · exact .inr ⟨hop (.inl hnan), hop (.inl hnan')⟩

theorem F32.isFinite_of_isNaN {x : Number} (h : F32.isNaN x = true) : F32.isFinite x = false :=
  decide_eq_false (F32.isNaN_iff.mp h).not_gt

theorem isFinite_eq_of_sameNumber {a b : Number} (h : SameNumber a b) : F32.isFinite a = F32.isFinite b := by
  obtain rfl | ⟨ha, hb⟩ := h
  · rfl
  · rw [F32.isFinite_of_isNaN ha, F32.isFinite_of_isNaN hb]

/-- Signals equal but for NaN payloads have lags equal but for NaN payloads (spec/93_implementation_defined.md I3). -/
theorem sameNumber_lagByIndex {x x' : Nat → Number} {n : Nat} (h : ∀ i, i < n → SameNumber (x i) (x' i)) (k : Nat) :
    SameNumber (lagByIndex x n k) (lagByIndex x' n k) := by
  induction n with
  | zero => exact .inl (by rw [lagByIndex_of_le x (Nat.zero_le k), lagByIndex_of_le x' (Nat.zero_le k)])
  | succ n ih =>
    obtain hk | hk := Nat.lt_or_ge n k
    · exact .inl (by rw [lagByIndex_of_le x hk, lagByIndex_of_le x' hk])
    · rw [lagByIndex_succ x hk, lagByIndex_succ x' hk]
      exact sameNumber_op F32.isNaN_add (ih fun i hi => h i (by omega))
        (sameNumber_op F32.isNaN_mul (h n (by omega)) (h (n - k) (by omega)))

/-- Settles O38: the lags are equal but for NaN payloads, so the same ones are finite. -/
theorem autocorrIgnoresNanPayloads : Obligations.AutocorrIgnoresNanPayloads := by
  intro s s' hidle hidle' hn hp hsignal
  have hlags : ∀ k, SameNumber (lagByIndex (xwAt s) s.n k) (lagByIndex (xwAt s') s'.n k) := hn ▸ sameNumber_lagByIndex hsignal
  refine ⟨_, _, completes_autocorr hidle, completes_autocorr hidle', ?_, fun k hk => ?_⟩
  · rw [Bool.eq_iff_iff, autocorr_nonfinite_iff, autocorr_nonfinite_iff, hp]
    exact exists_congr fun k => by rw [isFinite_eq_of_sameNumber (hlags k)]
  · rw [acAt_autocorr s hk, acAt_autocorr s' hk, hp]
    split
    · exact hlags k
    · exact .inl rfl

end Sys2Proof.Machine
end

section
/-! The recursion of RECURSE by index: the in-place coefficient update computes the copy form, entry by entry, and so does the whole
recursion (spec/42_levinson.md R116 to R121, R130). -/

namespace Sys2Proof.Machine

open Sys2Proof.Claim

/-! ### The in-place coefficient update -/

theorem getD_set (xs : List Number) (i j : Nat) (x : Number) :
    (xs.set i x).getD j F32.zero = if i = j ∧ j < xs.length then x else xs.getD j F32.zero := by
  rw [List.getD_eq_getElem?_getD, List.getD_eq_getElem?_getD, List.getElem?_set]
  by_cases hij : i = j
  · subst hij
    by_cases hlt : i < xs.length
    · rw [if_pos rfl, if_pos hlt, if_pos ⟨rfl, hlt⟩, Option.getD_some]
    · rw [if_pos rfl, if_neg hlt, if_neg fun h => hlt h.2, List.getElem?_eq_none (not_lt.mp hlt)]
  · rw [if_neg hij, if_neg fun h => hij h.1]

/-- The pair (m, i−1−m) and no other entry: each of the two from itself and the other one (spec/42_levinson.md R119). -/
theorem updatePair_getD (q : Number) {i m : Nat} {xs : List Number} (hi : i ≤ xs.length) (hm : 2 * m + 1 < i) (j : Nat) :
    (updatePair q i xs m).getD j F32.zero
      = if j = m ∨ j = i - 1 - m then F32.add (xs.getD j F32.zero) (F32.mul q (xs.getD (i - 1 - j) F32.zero))
        else xs.getD j F32.zero := by
  simp only [updatePair, getD_set, List.length_set]
  by_cases hright : j = i - 1 - m
  · have hmirror : i - 1 - j = m := by omega
    rw [if_pos ⟨hright.symm, by omega⟩, if_pos (.inr hright), hmirror, hright]
  · by_cases hleft : j = m
    · subst hleft
      rw [if_neg (by omega), if_pos ⟨rfl, by omega⟩, if_pos (.inl rfl)]
    · rw [if_neg (by omega), if_neg (by omega), if_neg (by omega)]

/-- After the first m pairs: the m lowest and the m highest entries below i are new, computed from the old ones. -/
theorem foldl_updatePair_getD (q : Number) {i m : Nat} {xs : List Number} (hi : i ≤ xs.length) (hm : 2 * m ≤ i) (j : Nat) :
    ((List.range m).foldl (updatePair q i) xs).getD j F32.zero
      = if j < m ∨ (i - m ≤ j ∧ j < i) then F32.add (xs.getD j F32.zero) (F32.mul q (xs.getD (i - 1 - j) F32.zero))
        else xs.getD j F32.zero := by
  induction m generalizing j with
  | zero => rw [if_neg (by omega)]; rfl
  | succ m ih =>
    have hold := ih (by omega)
    rw [List.range_succ, List.foldl_append, List.foldl_cons, List.foldl_nil,
      updatePair_getD q (by rwa [foldl_updatePair_length]) (by omega)]
    by_cases hpair : j = m ∨ j = i - 1 - m
    · rw [if_pos hpair, hold, hold, if_neg (by omega), if_neg (by omega), if_pos (by omega)]
    · rw [if_neg hpair, hold]
      exact if_congr (by omega) rfl rfl

theorem updateMiddle_getD (q : Number) {i : Nat} {xs : List Number} (hi : i ≤ xs.length) (j : Nat) :
    (updateMiddle q i xs).getD j F32.zero
      = if 2 * j + 1 = i then F32.add (xs.getD j F32.zero) (F32.mul (xs.getD j F32.zero) q) else xs.getD j F32.zero := by
  unfold updateMiddle
  by_cases hmiddle : 2 * j + 1 = i
  · have hj : i / 2 = j := by omega
    rw [if_pos (by omega), if_pos hmiddle, hj, getD_set, if_pos ⟨rfl, by omega⟩]
  · rw [if_neg hmiddle]
    split
    · rw [getD_set, if_neg (by omega)]
    · rfl

/-- Every entry, those at and above i as well. -/
theorem updateCoefficients_getD (q : Number) {i : Nat} {xs : List Number} (hi : i < xs.length) (j : Nat) :
    (updateCoefficients q i xs).getD j F32.zero = copyCoefficient q i (fun m => xs.getD m F32.zero) j := by
  have hset : i ≤ (xs.set i q).length := by rw [List.length_set]; exact hi.le
  rw [updateCoefficients, updateMiddle_getD q (by rwa [foldl_updatePair_length]),
    foldl_updatePair_getD q hset (by omega), getD_set, getD_set, copyCoefficient]
  obtain hlt | rfl | hgt := Nat.lt_trichotomy j i
  · rw [if_neg (by omega : ¬(i = j ∧ _)), if_neg (by omega : ¬(i = i - 1 - j ∧ _)), if_neg hlt.ne, if_neg hlt.not_gt]
    by_cases hmiddle : 2 * j + 1 = i
    · rw [if_pos hmiddle, if_neg (by omega), if_pos hmiddle]
    · rw [if_neg hmiddle, if_pos (by omega), if_neg hmiddle]
  · rw [if_neg (by omega), if_neg (by omega), if_pos ⟨rfl, hi⟩, if_pos rfl]
  · rw [if_neg (by omega), if_neg (by omega), if_neg (by omega), if_neg hgt.ne', if_pos hgt]

/-- Settles O46: each pair is computed from its two old values, and no pair meets another one. -/
theorem inPlaceUpdateIsTheCopyForm : Obligations.InPlaceUpdateIsTheCopyForm :=
  fun q _ j _ hi _ => updateCoefficients_getD q hi j

/-! ### The recursion in copy form -/

/-- The copy form of what the recursion holds: its lists read by index, +0 beyond their end. -/
def Recursion.copyForm (c : Recursion) : CopyForm :=
  { a := fun j => c.a.getD j F32.zero
    k := fun j => c.k.getD j F32.zero
    e := c.e
    zero := c.zero
    degen := c.degen
    unstable := c.unstable
    nonfinite := c.nonfinite }

theorem someNonfinite_take {xs : List Number} {n : Nat} (h : n ≤ xs.length) :
    someNonfinite (xs.take n) = (List.range n).any fun j => !F32.isFinite (xs.getD j F32.zero) := by
  have htake : xs.take n = (List.range n).map fun j => xs.getD j F32.zero := by
    apply List.ext_getElem
    · simpa using h
    · intro j hj _
      rw [List.getElem_take, List.getElem_map, List.getElem_range,
        List.getD_eq_getElem _ _ (hj.trans_le (List.length_take_le' ..))]
  rw [htake, someNonfinite, List.any_map]
  rfl

/-- One iteration (spec/42_levinson.md R130). -/
theorem copyForm_iterateWith (q : Number) {i : Nat} {c : Recursion} (ha : i < c.a.length) (hk : i < c.k.length) :
    (iterateWith q i c).copyForm = copyIterate q i c.copyForm := by
  have hcoefficients : (fun j => (updateCoefficients q i c.a).getD j F32.zero) = copyCoefficient q i c.copyForm.a :=
    funext fun j => updateCoefficients_getD q ha j
  have hreflections : (fun j => (c.k.set i q).getD j F32.zero) = fun j => if j = i then q else c.copyForm.k j := by
    funext j
    rw [getD_set]
    exact if_congr (by omega) rfl rfl
  have hnonfinite : someNonfinite ((updateCoefficients q i c.a).take (i + 1))
      = (List.range (i + 1)).any fun j => !F32.isFinite (copyCoefficient q i c.copyForm.a j) := by
    rw [someNonfinite_take (by rwa [updateCoefficients_length]), ← hcoefficients]
  simp only [Recursion.copyForm, iterateWith, hcoefficients, hreflections, hnonfinite]
  rfl

/-- The loop, as far as the lists are long enough for its iterations. -/
theorem copyForm_recursionLoop (r : List Number) {todo i : Nat} {c : Recursion} (ha : i + todo ≤ c.a.length)
    (hk : i + todo ≤ c.k.length) :
    (recursionLoop r todo i c).copyForm = copyLoop (fun m => r.getD m F32.zero) todo i c.copyForm := by
  induction todo generalizing i c with
  | zero => rfl
  | succ todo ih =>
    have hstop : isDegenerate c.e = true ↔ F32.lt F32.zero c.copyForm.e = false ∨ F32.isFinite c.copyForm.e = false := by
      simp [isDegenerate, Recursion.copyForm]
    rw [recursionLoop, copyLoop]
    by_cases h : isDegenerate c.e = true
    · rw [if_pos h, if_pos (hstop.mp h)]
      rfl
    · rw [if_neg h, if_neg (mt hstop.mpr h),
        ih (by simp [iterateWith]; omega) (by simp [iterateWith]; omega),
        copyForm_iterateWith _ (by omega) (by omega)]
      rfl

theorem copyForm_recursionStart (e : Number) : (recursionStart e).copyForm = copyStart e := by
  have hcleared : (fun j => clearedOutputs.getD j F32.zero) = fun _ => F32.zero := by
    funext j
    exact List.getElem?_getD_replicate_default_eq ..
  simp only [Recursion.copyForm, recursionStart, hcleared]
  rfl

/-- The whole recursion, on a list of the lags 0 to p. -/
theorem copyForm_recursion {p : Nat} {r : List Number} (hp : p ≤ 16) (hr : r.length = p + 1) :
    (recursion p r).copyForm = copyRecursion p fun m => r.getD m F32.zero := by
  have hnonfinite : someNonfinite r = (List.range (p + 1)).any fun m => !F32.isFinite (r.getD m F32.zero) := by
    rw [← someNonfinite_take hr.ge, ← hr, List.take_length]
  have hcleared : p ≤ clearedOutputs.length := by simpa [clearedOutputs] using hp
  rw [recursion, copyRecursion, hnonfinite]
  split
  · rw [← F32.zero, ← copyForm_recursionStart]
    rfl
  · split
    · rw [← F32.zero, ← copyForm_recursionStart]
      rfl
    · rw [copyForm_recursionLoop, copyForm_recursionStart]
      · simpa [recursionStart] using hcleared
      · simpa [recursionStart] using hcleared

end Sys2Proof.Machine
end

section
/-! What the recursion leaves, from its copy form: the pre-checks, the early stop, the lags it depends on, and what its flags say
(spec/42_levinson.md R117 to R126). -/

namespace Sys2Proof.Machine

open Sys2Proof.Claim

/-! ### The pre-checks and the early stop -/

/-- Both zeros are equal to +0 (spec/00_scope.md R10). -/
theorem F32.eq_zero_of_zero_word {x : Number} (h : x = 0x00000000 ∨ x = 0x80000000) : F32.eq x F32.zero = true := by
  obtain rfl | rfl := h <;> decide

theorem F32.eq_eq_false_of_lt {a b : Number} (h : F32.lt a b = true ∨ F32.lt b a = true) : F32.eq a b = false := by
  simp only [F32.lt, F32.eq, Bool.and_eq_true, decide_eq_true_eq] at h ⊢
  have hkey : F32.key a ≠ F32.key b := by omega
  rw [decide_eq_false hkey, Bool.and_false]

theorem F32.lt_asymm {a b : Number} (h : F32.lt a b = true) : F32.lt b a = false := by
  simp only [F32.lt, Bool.and_eq_true, decide_eq_true_eq] at h ⊢
  rw [decide_eq_false (by omega), Bool.and_false]

/-- Some lag is not finite (spec/42_levinson.md R117). -/
theorem copyRecursion_of_nonfinite {p : Nat} {r : Nat → Number} (h : ∃ m, m ≤ p ∧ F32.isFinite (r m) = false) :
    copyRecursion p r = { copyStart F32.zero with nonfinite := true, degen := true } := by
  obtain ⟨m, hm, hfin⟩ := h
  exact if_pos (List.any_eq_true.mpr ⟨m, List.mem_range.mpr (Nat.lt_succ_of_le hm), by rw [hfin]; rfl⟩)

section
variable {p : Nat} {r : Nat → Number} (hfin : ∀ m, m ≤ p → F32.isFinite (r m) = true)
include hfin

theorem lags_any_nonfinite : ((List.range (p + 1)).any fun m => !F32.isFinite (r m)) = false := by
  rw [List.any_eq_false]
  intro m hm
  rw [hfin m (Nat.le_of_lt_succ (List.mem_range.mp hm))]
  exact Bool.false_ne_true

/-- The lags are finite and lag 0 is ±0 (spec/42_levinson.md R117). -/
theorem copyRecursion_of_zero (hzero : F32.eq (r 0) F32.zero = true) :
    copyRecursion p r = { copyStart F32.zero with zero := true } := by
  rw [copyRecursion, lags_any_nonfinite hfin, if_neg Bool.false_ne_true, if_pos hzero]
  rfl

/-- The lags pass both pre-checks. -/
theorem copyRecursion_of_checked (hzero : F32.eq (r 0) F32.zero = false) :
    copyRecursion p r = copyLoop r p 0 (copyStart (r 0)) := by
  rw [copyRecursion, lags_any_nonfinite hfin, if_neg Bool.false_ne_true, hzero, if_neg Bool.false_ne_true]

end

/-- Every run is one of the three. -/
theorem copyRecursion_cases (p : Nat) (r : Nat → Number) :
    copyRecursion p r = { copyStart F32.zero with nonfinite := true, degen := true }
      ∨ copyRecursion p r = { copyStart F32.zero with zero := true }
      ∨ (F32.isFinite (r 0) = true ∧ copyRecursion p r = copyLoop r p 0 (copyStart (r 0))) := by
  by_cases hnonfinite : ∃ m, m ≤ p ∧ F32.isFinite (r m) = false
  · exact .inl (copyRecursion_of_nonfinite hnonfinite)
  · have hfin : ∀ m, m ≤ p → F32.isFinite (r m) = true := by simpa using hnonfinite
    cases hzero : F32.eq (r 0) F32.zero with
    | true => exact .inr (.inl (copyRecursion_of_zero hfin hzero))
    | false => exact .inr (.inr ⟨hfin 0 (Nat.zero_le p), copyRecursion_of_checked hfin hzero⟩)

theorem copyLoop_of_stop {r : Nat → Number} {todo i : Nat} {c : CopyForm} (hpos : F32.lt F32.zero c.e = false) :
    copyLoop r (todo + 1) i c = { c with degen := true } := if_pos (.inl hpos)

theorem copyLoop_of_go {r : Nat → Number} {todo i : Nat} {c : CopyForm} (hpos : F32.lt F32.zero c.e = true)
    (hfin : F32.isFinite c.e = true) :
    copyLoop r (todo + 1) i c = copyLoop r todo (i + 1) (copyIterate (copyReflection r c.a c.e i) i c) := by
  rw [copyLoop, if_neg (by simp [hpos, hfin])]

/-- A negative lag 0 stops the run before iteration 0 (spec/42_levinson.md R121). -/
theorem copyRecursion_of_negative {p : Nat} {r : Nat → Number} (hp : 1 ≤ p) (hfin : ∀ m, m ≤ p → F32.isFinite (r m) = true)
    (hneg : F32.lt (r 0) F32.zero = true) : copyRecursion p r = { copyStart (r 0) with degen := true } := by
  obtain ⟨todo, rfl⟩ := Nat.exists_eq_add_of_le' hp
  rw [copyRecursion_of_checked hfin (F32.eq_eq_false_of_lt (.inl hneg))]
  exact copyLoop_of_stop (c := copyStart (r 0)) (F32.lt_asymm hneg)

/-- Iteration 0 has no earlier coefficient (spec/42_levinson.md R118). -/
theorem copyReflection_zero (r a : Nat → Number) (e : Number) : copyReflection r a e 0 = F32.div (F32.neg (r 1)) e := rfl

/-- Order 1 on finite lags and a positive lag 0: iteration 0 and no other. -/
theorem copyRecursion_one {r : Nat → Number} (hfin0 : F32.isFinite (r 0) = true) (hfin1 : F32.isFinite (r 1) = true)
    (hpos : F32.lt F32.zero (r 0) = true) :
    copyRecursion 1 r = copyIterate (F32.div (F32.neg (r 1)) (r 0)) 0 (copyStart (r 0)) := by
  have hfin : ∀ m, m ≤ 1 → F32.isFinite (r m) = true := fun m hm => by
    obtain rfl | rfl := Nat.le_one_iff_eq_zero_or_eq_one.mp hm <;> assumption
  have hgo : copyLoop r 1 0 (copyStart (r 0)) = copyIterate (copyReflection r (copyStart (r 0)).a (r 0) 0) 0 (copyStart (r 0)) :=
    copyLoop_of_go (c := copyStart (r 0)) hpos hfin0
  rw [copyRecursion_of_checked hfin (F32.eq_eq_false_of_lt (.inr hpos)), hgo, copyReflection_zero]

theorem copyIterate_a_self (q : Number) (i : Nat) (c : CopyForm) : (copyIterate q i c).a i = q := if_pos rfl

theorem copyIterate_k_self (q : Number) (i : Nat) (c : CopyForm) : (copyIterate q i c).k i = q := if_pos rfl

/-! ### The lags the recursion depends on -/

theorem copyReflection_congr {r r' : Nat → Number} {i : Nat} (h : ∀ m, m ≤ i + 1 → r m = r' m) (a : Nat → Number) (e : Number) :
    copyReflection r a e i = copyReflection r' a e i := by
  rw [copyReflection, copyReflection, h (i + 1) le_rfl]
  congr 1
  exact List.foldl_ext _ _ _ fun q j hj => by rw [h (i - j) (by omega)]

theorem copyLoop_congr {r r' : Nat → Number} {todo i : Nat} (h : ∀ m, m ≤ i + todo → r m = r' m) (c : CopyForm) :
    copyLoop r todo i c = copyLoop r' todo i c := by
  induction todo generalizing i c with
  | zero => rfl
  | succ todo ih =>
    rw [copyLoop, copyLoop, copyReflection_congr fun m hm => h m (by omega), ih fun m hm => h m (by omega)]

/-- Only the lags 0 to p count (spec/42_levinson.md R122). -/
theorem copyRecursion_congr {p : Nat} {r r' : Nat → Number} (h : ∀ m, m ≤ p → r m = r' m) :
    copyRecursion p r = copyRecursion p r' := by
  by_cases hnonfinite : ∃ m, m ≤ p ∧ F32.isFinite (r m) = false
  · obtain ⟨m, hm, hr⟩ := hnonfinite
    rw [copyRecursion_of_nonfinite ⟨m, hm, hr⟩, copyRecursion_of_nonfinite ⟨m, hm, h m hm ▸ hr⟩]
  · have hfin : ∀ m, m ≤ p → F32.isFinite (r m) = true := by simpa using hnonfinite
    have hfin' : ∀ m, m ≤ p → F32.isFinite (r' m) = true := fun m hm => h m hm ▸ hfin m hm
    have h0 : r 0 = r' 0 := h 0 (Nat.zero_le p)
    cases hzero : F32.eq (r 0) F32.zero with
    | true => rw [copyRecursion_of_zero hfin hzero, copyRecursion_of_zero hfin' (h0 ▸ hzero)]
    | false =>
      rw [copyRecursion_of_checked hfin hzero, copyRecursion_of_checked hfin' (h0 ▸ hzero), h0]
      exact copyLoop_congr (by simpa using h) _

/-! ### What the flags say of the run -/

/-- After iterations 0 to n−1 at most: nothing above them is set, UNSTABLE is the test of every coefficient left, and an error that
is not finite has been noted (spec/42_levinson.md R122, R125, R126). -/
structure CopyConsistent (n : Nat) (c : CopyForm) : Prop where
  above : ∀ j, n ≤ j → c.a j = F32.zero ∧ c.k j = F32.zero
  unstable : c.unstable = true ↔ ∃ j, F32.lt (F32.abs (c.k j)) F32.one = false
  noted : F32.isFinite c.e = false → c.nonfinite = true

theorem CopyConsistent.mono {m n : Nat} {c : CopyForm} (h : CopyConsistent m c) (hmn : m ≤ n) : CopyConsistent n c :=
  ⟨fun j hj => h.above j (hmn.trans hj), h.unstable, h.noted⟩

theorem F32.abs_zero_lt_one : F32.lt (F32.abs F32.zero) F32.one = true := by decide

/-- The outputs cleared and no coefficient tested. -/
theorem CopyConsistent.of_cleared {c : CopyForm} (ha : c.a = fun _ => F32.zero) (hk : c.k = fun _ => F32.zero)
    (hunstable : c.unstable = false) (he : F32.isFinite c.e = true) (n : Nat) : CopyConsistent n c where
  above j _ := by rw [ha, hk]; exact ⟨rfl, rfl⟩
  unstable := by simp [hunstable, hk, F32.abs_zero_lt_one]
  noted h := absurd (he.symm.trans h) (by decide)

theorem CopyConsistent.iterate {i : Nat} {c : CopyForm} (h : CopyConsistent i c) (q : Number) :
    CopyConsistent (i + 1) (copyIterate q i c) where
  above j hj := by
    obtain ⟨ha, hk⟩ := h.above j (by omega)
    exact ⟨by rw [← ha]; exact (if_neg (by omega)).trans (if_pos hj), by rw [← hk]; exact if_neg (by omega)⟩
  unstable := by
    have hki : F32.lt (F32.abs (c.k i)) F32.one = true := by rw [(h.above i le_rfl).2, F32.abs_zero_lt_one]
    simp only [copyIterate, Bool.or_eq_true, Bool.not_eq_true', h.unstable]
    constructor
    · rintro (⟨j, hj⟩ | hq)
      · have hne : j ≠ i := by rintro rfl; simp [hki] at hj
        exact ⟨j, by rwa [if_neg hne]⟩
      · exact ⟨i, by rwa [if_pos rfl]⟩
    · rintro ⟨j, hj⟩
      by_cases hji : j = i
      · exact .inr (by rwa [if_pos hji] at hj)
      · exact .inl ⟨j, by rwa [if_neg hji] at hj⟩
  noted he := by
    simp only [copyIterate] at he ⊢
    rw [he, Bool.not_false, Bool.or_true]

theorem CopyConsistent.loop {i : Nat} {c : CopyForm} (h : CopyConsistent i c) (r : Nat → Number) (todo : Nat) :
    CopyConsistent (i + todo) (copyLoop r todo i c) := by
  induction todo generalizing i c with
  | zero => exact h
  | succ todo ih =>
    rw [copyLoop]
    split
    · obtain ⟨habove, hunstable, hnoted⟩ := h.mono (Nat.le_add_right i (todo + 1))
      exact ⟨habove, hunstable, hnoted⟩
    · rw [← Nat.succ_add_eq_add_succ]
      exact ih (h.iterate _)

theorem copyRecursion_consistent (p : Nat) (r : Nat → Number) : CopyConsistent p (copyRecursion p r) := by
  obtain h | h | ⟨hfin, h⟩ := copyRecursion_cases p r <;> rw [h]
  · exact .of_cleared rfl rfl rfl (by decide) p
  · exact .of_cleared rfl rfl rfl (by decide) p
  · have hstart := CopyConsistent.of_cleared (c := copyStart (r 0)) rfl rfl rfl hfin 0
    simpa only [Nat.zero_add] using hstart.loop r p

/-- The loop sets DEGEN alone of the two. -/
theorem copyLoop_zero (r : Nat → Number) (todo i : Nat) (c : CopyForm) : (copyLoop r todo i c).zero = c.zero := by
  induction todo generalizing i c with
  | zero => rfl
  | succ todo ih =>
    rw [copyLoop]
    split
    · rfl
    · exact ih ..

theorem copyRecursion_zero_degen (p : Nat) (r : Nat → Number) :
    ¬((copyRecursion p r).zero = true ∧ (copyRecursion p r).degen = true) := by
  rintro ⟨hzero, hdegen⟩
  obtain h | h | ⟨-, h⟩ := copyRecursion_cases p r
  · rw [h] at hzero
    exact Bool.false_ne_true hzero
  · rw [h] at hdegen
    exact Bool.false_ne_true hdegen
  · rw [h, copyLoop_zero] at hzero
    exact Bool.false_ne_true hzero

end Sys2Proof.Machine
end

section
/-! The command RECURSE from its issue to its end: what it stores, what it notes and what it leaves unchanged
(spec/42_levinson.md R116 to R127). -/

namespace Sys2Proof.Machine

open Sys2Proof.Claim

/-! ### What the stage stores -/

theorem map_toBits (xs : List Number) : xs.map Number.toBits = xs := List.map_id xs

/-- A word of an array just written. -/
theorem wordAt_storeArray_inside {base i : Nat} {ws : List Word} (s : State) (h : i < ws.length) :
    wordAt (storeArray base ws s) (base + 4 * i) = ws.getD i 0 :=
  Memory.readWord_storeWords_inside h

/-- `t` is what storing the results of the recursion `c` over `s` leaves: outputs, and flags only set. -/
structure RecursionStored (c : CopyForm) (s t : State) : Prop where
  lpc : ∀ j, j < 16 → lpcAt t j = c.a j
  rc : ∀ j, j < 16 → rcAt t j = c.k j
  err : t.err = c.e
  zero : t.zero = (s.zero || c.zero)
  degen : t.degen = (s.degen || c.degen)
  unstable : t.unstable = (s.unstable || c.unstable)
  nonfinite : t.nonfinite = (s.nonfinite || c.nonfinite)

theorem storeRecursion_stored {c : Recursion} (ha : c.a.length = 16) (hk : c.k.length = 16) (s : State) :
    RecursionStored c.copyForm s (storeRecursion c s) where
  lpc j hj := by
    have hbelow : locOffset (.lpc j) + 4 ≤ rcBase := by simp only [locOffset, lpcBase, rcBase]; omega
    calc lpcAt (storeRecursion c s) j
      _ = wordAt (storeArray lpcBase (c.a.map Number.toBits) s) (locOffset (.lpc j)) :=
        wordAt_storeArray_outside _ (.inl hbelow)
      _ = (c.a.map Number.toBits).getD j 0 := wordAt_storeArray_inside _ (by rwa [map_toBits, ha])
      _ = c.copyForm.a j := by rw [map_toBits]; rfl
  rc j hj := by
    calc rcAt (storeRecursion c s) j
      _ = (c.k.map Number.toBits).getD j 0 := wordAt_storeArray_inside _ (by rwa [map_toBits, hk])
      _ = c.copyForm.k j := by rw [map_toBits]; rfl
  err := rfl
  zero := rfl
  degen := rfl
  unstable := rfl
  nonfinite := rfl

theorem conditionedLags_getD {s : State} {m : Nat} (hm : m ≤ s.p) : (conditionedLags s).getD m F32.zero = acAt s m := by
  rw [conditionedLags, getD_map_range, if_pos (Nat.lt_succ_of_le hm)]

/-- The stage stores the copy form on the lags it reads. -/
theorem performStage_recurse_stored {s : State} (hp : s.p ≤ 16) :
    RecursionStored (copyRecursion s.p (acAt s)) s (performStage .recurse s) := by
  obtain ⟨ha, hk⟩ := recursion_length s.p (conditionedLags s)
  have hstored := storeRecursion_stored ha hk s
  rwa [copyForm_recursion hp (by simp [conditionedLags]), copyRecursion_congr fun _ => conditionedLags_getD] at hstored

/-! ### The stage -/

theorem RecursionStored.cleared {c : CopyForm} {s t : State} (h : RecursionStored c s t) (ha : c.a = fun _ => F32.zero)
    (hk : c.k = fun _ => F32.zero) (j : Nat) (hj : j < 16) : lpcAt t j = 0x00000000 ∧ rcAt t j = 0x00000000 := by
  rw [h.lpc j hj, h.rc j hj, ha, hk]
  exact ⟨rfl, rfl⟩

/-- Settles O41: each pre-check leaves cleared outputs, ERR = +0 and its own flags. -/
theorem recursePrechecks : Obligations.RecursePrechecks := by
  rintro s t hp rfl
  have hstored := performStage_recurse_stored hp
  refine ⟨fun hnonfinite => ?_, fun hfin hzero => ?_⟩
  · rw [copyRecursion_of_nonfinite hnonfinite] at hstored
    exact ⟨by simp [hstored.nonfinite], by simp [hstored.degen], by simp [hstored.zero, copyStart],
      by simp [hstored.unstable, copyStart], hstored.err, hstored.cleared rfl rfl⟩
  · rw [copyRecursion_of_zero hfin (F32.eq_zero_of_zero_word hzero)] at hstored
    exact ⟨by simp [hstored.zero], by simp [hstored.degen, copyStart], by simp [hstored.nonfinite, copyStart],
      by simp [hstored.unstable, copyStart], hstored.err, hstored.cleared rfl rfl⟩

/-- Settles O42: the copy form is the same on the same lags, and no iteration reaches an entry from P on. -/
theorem recurseOutputsDependOnLagsAlone : Obligations.RecurseOutputsDependOnLagsAlone := by
  rintro s s' t t' hp hpp hlags rfl rfl
  have hstored := performStage_recurse_stored hp
  have hstored' := performStage_recurse_stored (hpp ▸ hp)
  rw [← hpp, ← copyRecursion_congr hlags] at hstored'
  refine ⟨fun j hj => ⟨?_, ?_⟩, ?_, fun j hlow hhigh => ?_, fun h => ?_, fun h => ?_, fun h => ?_, fun h => ?_⟩
  · rw [hstored.lpc j hj, hstored'.lpc j hj]
  · rw [hstored.rc j hj, hstored'.rc j hj]
  · rw [hstored.err, hstored'.err]
  · rw [hstored.lpc j hhigh, hstored.rc j hhigh]
    exact (copyRecursion_consistent s.p (acAt s)).above j hlow
  · rw [hstored.zero, hstored'.zero, h]
  · rw [hstored.degen, hstored'.degen, h]
  · rw [hstored.unstable, hstored'.unstable, h]
  · rw [hstored.nonfinite, hstored'.nonfinite, h]

/-! ### The command -/

/-- A command of one stage leaves configuration, ERRINFO, floor constants and surroundings as they were (spec/20_memory.md R61). -/
theorem commandFrame_of_one_stage (i : Instr) {st : Stage} (hst : st ≠ .softreset) (s : State) :
    CommandFrame (commandWord i) s (completeStage [] (performStage st (accepted i s))) := by
  obtain ⟨z, d, u, f, mem, err, hstage, -⟩ := performStage_cases hst (accepted i s)
  rw [hstage]
  exact ⟨rfl, rfl, rfl, rfl, rfl, rfl, rfl, rfl, rfl, rfl, rfl, rfl, rfl, rfl, rfl, rfl, rfl, rfl⟩

/-- The state RECURSE leaves, from its issue on, where its recursion is `c`. -/
def recursionDone (c : Recursion) (s : State) : State := completeStage [] (storeRecursion c (accepted .recurse s))

/-- The state RECURSE leaves, from its issue on. -/
abbrev recurseDone (s : State) : State := recursionDone (recursion s.p (conditionedLags s)) s

theorem completes_recurse {s : State} (hidle : s.pending = []) : Completes .recurse s (recurseDone s) :=
  completes_of_one_stage (st := .recurse) rfl (by decide) hidle

theorem recursionDone_p (c : Recursion) (s : State) : (recursionDone c s).p = s.p := by
  rw [recursionDone, completeStage_p, storeRecursion, noteRecursion_p, storeArray_p, storeArray_p]
  rfl

theorem recursionDone_mem (c : Recursion) (s : State) :
    (recursionDone c s).mem
      = (s.mem.storeWords lpcBase (c.a.map Number.toBits)).storeWords rcBase (c.k.map Number.toBits) := rfl

/-- Acceptance clears the flags and leaves the lags alone (spec/40_host_access.md R95). -/
theorem recurseDone_stored {s : State} (hp : s.p ≤ 16) :
    RecursionStored (copyRecursion s.p (acAt s)) (accepted .recurse s) (recurseDone s) := by
  obtain ⟨hlpc, hrc, herr, hzero, hdegen, hunstable, hnonfinite⟩ :=
    performStage_recurse_stored (s := accepted .recurse s) hp
  exact ⟨hlpc, hrc, herr, hzero, hdegen, hunstable, hnonfinite⟩

/-- The bytes outside LPC and RC (spec/42_levinson.md R127). -/
theorem read_recurseDone_outside (s : State) {a : Nat} (hlpc : ¬(0x200 ≤ a ∧ a < 0x240)) (hrc : ¬(0x280 ≤ a ∧ a < 0x2C0)) :
    (recurseDone s).mem.read a = s.mem.read a := by
  obtain ⟨ha, hk⟩ := recursion_length s.p (conditionedLags s)
  rw [recursionDone_mem, map_toBits, map_toBits, Memory.read_storeWords_outside, Memory.read_storeWords_outside]
  · rw [ha, lpcBase, Config.pMax]; omega
  · rw [hk, rcBase, Config.pMax]; omega

/-- Settles O40: the stage stores the recursion of its lags, which has the copy form, and nothing else. -/
theorem recurseIsTheCopyForm : Obligations.RecurseIsTheCopyForm := by
  intro s hidle hp
  obtain ⟨hlpc, hrc, herr, hzero, hdegen, hunstable, hnonfinite⟩ := recurseDone_stored hp
  have hframe : CommandFrame (commandWord .recurse) s (recurseDone s) :=
    commandFrame_of_one_stage .recurse (st := .recurse) (by decide) s
  exact ⟨_, completes_recurse hidle, hframe, fun _ => read_recurseDone_outside s, fun j hj => ⟨hlpc j hj, hrc j hj⟩,
    herr, hzero, hdegen, hunstable, hnonfinite⟩

/-- Settles O43: no run sets both flags, and the coefficients tested are those it left. -/
theorem recurseFlagsDescribeTheRun : Obligations.RecurseFlagsDescribeTheRun := by
  intro s hidle hp
  obtain ⟨-, hrc, herr, hzero, hdegen, hunstable, hnonfinite⟩ := recurseDone_stored hp
  obtain ⟨habove, htested, hnoted⟩ := copyRecursion_consistent s.p (acAt s)
  refine ⟨_, completes_recurse hidle, ?_, ?_, fun _ _ herrNonfinite => ?_⟩
  · rw [hzero, hdegen]
    exact copyRecursion_zero_degen s.p (acAt s)
  · rw [hunstable]
    refine htested.trans ⟨fun ⟨j, hj⟩ => ?_, fun ⟨j, hlt, hj⟩ => ⟨j, by rwa [← hrc j (hlt.trans_le hp)]⟩⟩
    have hlt : j < s.p := by
      by_contra hge
      rw [(habove j (not_lt.mp hge)).2, F32.abs_zero_lt_one] at hj
      exact Bool.false_ne_true hj.symm
    exact ⟨j, hlt, by rwa [hrc j (hlt.trans_le hp)]⟩
  · rw [hnonfinite]
    exact hnoted (herr ▸ herrNonfinite)

/-- Settles O44: a negative lag 0 passes the pre-checks and fails the test before the first iteration. -/
theorem recurseStopsOnNegativeEnergy : Obligations.RecurseStopsOnNegativeEnergy := by
  intro s hidle hpos hp hfin hneg
  have hrun := copyRecursion_of_negative (r := acAt s) hpos hfin hneg
  have hstored := recurseDone_stored hp
  rw [hrun] at hstored
  exact ⟨_, completes_recurse hidle, hstored.degen, hstored.zero, hstored.unstable, hstored.nonfinite, hstored.err,
    hstored.cleared rfl rfl⟩

/-- Settles O45: the one iteration has no earlier coefficient to subtract or to update. -/
theorem recurseOfOrderOne : Obligations.RecurseOfOrderOne := by
  intro s hidle hp hfin0 hfin1 hpos
  have hrun : copyRecursion s.p (acAt s)
      = copyIterate (F32.div (F32.neg (acAt s 1)) (acAt s 0)) 0 (copyStart (acAt s 0)) := by
    rw [hp]
    exact copyRecursion_one (r := acAt s) hfin0 hfin1 hpos
  have hstored := recurseDone_stored (s := s) (by omega)
  rw [hrun] at hstored
  have hunstable : (recurseDone s).unstable = !F32.lt (F32.abs (F32.div (F32.neg (acAt s 1)) (acAt s 0))) F32.one :=
    hstored.unstable
  refine ⟨_, _, completes_recurse hidle, rfl, ?_, ?_, hstored.err, hstored.degen, hstored.zero, ?_⟩
  · rw [hstored.lpc 0 (by decide), copyIterate_a_self]
  · rw [hstored.rc 0 (by decide), copyIterate_k_self]
  · rw [hunstable, Bool.not_eq_true']

/-! ### RECURSE again -/

theorem Memory.read_storeWords (m : Memory) (base : Nat) (ws : List Word) (a : Nat) :
    (m.storeWords base ws).read a
      = if base ≤ a ∧ a < base + 4 * ws.length then (ws.flatMap wordBytes).getD (a - base) 0 else m.read a := by
  split
  next hin => exact Memory.read_store_inside hin.1 (by rw [flatMap_wordBytes_length]; exact hin.2)
  next hout => exact Memory.read_storeWords_outside (by omega)

/-- Arrays apart may be written in either order. -/
theorem Memory.storeWords_comm {m : Memory} (h : m.wf) {base base' : Nat} {ws ws' : List Word}
    (hdisjoint : base + 4 * ws.length ≤ base') :
    (m.storeWords base ws).storeWords base' ws' = (m.storeWords base' ws').storeWords base ws := by
  refine Memory.ext_of_wf (Memory.wf_storeWords (Memory.wf_storeWords h _ _) _ _)
    (Memory.wf_storeWords (Memory.wf_storeWords h _ _) _ _) fun a => ?_
  simp only [Memory.read_storeWords]
  by_cases hin : base ≤ a ∧ a < base + 4 * ws.length
  · have hout : ¬(base' ≤ a ∧ a < base' + 4 * ws'.length) := by omega
    rw [if_neg hout, if_pos hin, if_pos hin]
  · rw [if_neg hin, if_neg hin]

/-- Two arrays apart, each written twice with the same words. -/
theorem Memory.storeWords_pair_twice {m : Memory} (h : m.wf) {base base' : Nat} {ws ws' : List Word}
    (hdisjoint : base + 4 * ws.length ≤ base') :
    (((m.storeWords base ws).storeWords base' ws').storeWords base ws).storeWords base' ws'
      = (m.storeWords base ws).storeWords base' ws' := by
  have hwf := Memory.wf_storeWords h base ws
  rw [← Memory.storeWords_comm hwf hdisjoint, Memory.storeWords_storeWords h, Memory.storeWords_storeWords hwf]

/-- The lags are below what RECURSE writes (spec/42_levinson.md R127). -/
theorem conditionedLags_recursionDone (c : Recursion) {s : State} (hp : s.p ≤ 16) :
    conditionedLags (recursionDone c s) = conditionedLags s := by
  rw [conditionedLags, conditionedLags, recursionDone_p]
  refine List.map_congr_left fun m hm => ?_
  have hlt : m < s.p + 1 := List.mem_range.mp hm
  have hbelow : locOffset (.ac m) + 4 ≤ lpcBase := by simp only [locOffset, acBase, lpcBase]; omega
  rw [acAt, acAt, wordAt, recursionDone_mem, Memory.readWord_storeWords_outside (.inl (hbelow.trans (by decide))),
    Memory.readWord_storeWords_outside (.inl hbelow), wordAt]

/-- The same results stored again, on a block that acceptance has cleared again. -/
theorem recursionDone_recursionDone {c : Recursion} {s : State} (hwf : s.mem.wf) (ha : c.a.length = 16) :
    recursionDone c (recursionDone c s) = recursionDone c s := by
  have hdisjoint : lpcBase + 4 * (c.a.map Number.toBits).length ≤ rcBase := by rw [map_toBits, ha]; decide
  exact congrArg (fun m => { recursionDone c s with mem := m }) (Memory.storeWords_pair_twice hwf hdisjoint)

theorem recurseDone_recurseDone {s : State} (hwf : s.mem.wf) (hp : s.p ≤ 16) : recurseDone (recurseDone s) = recurseDone s := by
  obtain ⟨ha, -⟩ := recursion_length s.p (conditionedLags s)
  simp only [recurseDone, recursionDone_p, conditionedLags_recursionDone _ hp, recursionDone_recursionDone hwf ha]

/-- Settles O47: the same recursion on the same lags, its results stored over themselves. -/
theorem recurseIsIdempotent : Obligations.RecurseIsIdempotent := by
  intro s hidle hwf hp
  have hagain := completes_recurse (s := recurseDone s) rfl
  rw [recurseDone_recurseDone hwf hp] at hagain
  exact ⟨_, completes_recurse hidle, hagain⟩

end Sys2Proof.Machine
end

section
/-! The command CONDITION, and LEVINSON as CONDITION then RECURSE (spec/42_levinson.md R113 to R115, R128). -/

namespace Sys2Proof.Machine

open Sys2Proof.Claim

/-! ### CONDITION -/

/-- The state CONDITION leaves, from its issue on. -/
def conditionDone (s : State) : State := completeStage [] (performStage .condition (accepted .condition s))

theorem completes_condition {s : State} (hidle : s.pending = []) : Completes .condition s (conditionDone s) :=
  completes_of_one_stage (st := .condition) rfl (by decide) hidle

/-- What only RECURSE sets stays as acceptance left it (spec/10_state.md R42). -/
theorem conditionDone_recursionResults (s : State) :
    (conditionDone s).err = s.err ∧ (conditionDone s).zero = false ∧ (conditionDone s).degen = false
      ∧ (conditionDone s).unstable = false :=
  ⟨rfl, rfl, rfl, rfl⟩

/-- The lags 0 to P are stored, no more (spec/42_levinson.md R115). -/
theorem conditionDone_mem {s : State} (hp : s.p ≤ 16) :
    (conditionDone s).mem = s.mem.storeWords acBase ((List.range (s.p + 1)).map (conditionedLag s)) := by
  have hlen : ((List.range (s.p + 1)).map (conditionedLag s)).length ≤ Config.pMax + 1 := by simpa using hp
  exact congrArg (s.mem.storeWords acBase) ((map_toBits _).trans (List.take_of_length_le hlen))

theorem conditionDone_bytesKept {s : State} (hp : s.p ≤ 16) :
    BytesKeptOutside acBase (acBase + 4 * (s.p + 1)) s (conditionDone s) := by
  intro a h
  rw [conditionDone_mem hp, Memory.read_storeWords_outside (by rwa [List.length_map, List.length_range])]

theorem acAt_conditionDone {s : State} (hp : s.p ≤ 16) {k : Nat} (hk : k ≤ s.p) :
    acAt (conditionDone s) k = conditionedLag s k := by
  have hlt : k < s.p + 1 := Nat.lt_succ_of_le hk
  calc acAt (conditionDone s) k
    _ = ((List.range (s.p + 1)).map (conditionedLag s)).getD k F32.zero := by
      rw [acAt, wordAt, conditionDone_mem hp]
      exact Memory.readWord_storeWords_inside (by rwa [List.length_map, List.length_range])
    _ = conditionedLag s k := by rw [getD_map_range, if_pos hlt]

theorem conditionDone_nonfinite_iff (s : State) :
    (conditionDone s).nonfinite = true ↔ ∃ k, k < s.p + 1 ∧ F32.isFinite (conditionedLag s k) = false := by
  have hnoted : (conditionDone s).nonfinite = someNonfinite ((List.range (s.p + 1)).map (conditionedLag s)) := Bool.false_or _
  rw [hnoted, someNonfinite_map_range]

/-- Settles O39: the conditioned lags are computed from what acceptance leaves alone, and stored entry by entry. -/
theorem conditionFloorsAndWeights : Obligations.ConditionFloorsAndWeights := by
  intro s hidle hp
  obtain ⟨herr, hzero, hdegen, hunstable⟩ := conditionDone_recursionResults s
  refine ⟨_, completes_condition hidle, commandFrame_of_one_stage .condition (by decide) s, conditionDone_bytesKept hp, herr,
    hzero, hdegen, hunstable, acAt_conditionDone hp (Nat.zero_le _), fun k hpos hk => ?_, ?_⟩
  · rw [acAt_conditionDone hp hk, conditionedLag, if_neg (by omega)]
  · rw [conditionDone_nonfinite_iff]
    refine exists_congr fun k => ?_
    rw [Nat.lt_succ_iff]
    exact and_congr_right fun hk => by rw [acAt_conditionDone hp hk]

/-! ### Commands of several stages -/

/-- The stages performed one after another, each completed (spec/43_control_ops.md R136, R137). -/
def performStages : List Stage → State → State
  | [], s => s
  | st :: rest, s => performStages rest (completeStage rest (performStage st s))

theorem iterate_engineStep {stages : List Stage} {s : State} (hpend : s.pending = stages) (hsoft : .softreset ∉ stages) :
    engineStep^[stages.length] s = performStages stages s := by
  induction stages generalizing s with
  | nil => rfl
  | cons st rest ih =>
    obtain ⟨hst, hrest⟩ := List.ne_and_not_mem_of_not_mem_cons hsoft
    rw [List.length_cons, Function.iterate_succ_apply, engineStep_stage hpend hst.symm, performStages]
    exact ih rfl hrest

/-- A command without SOFTRESET, issued on an idle block, completes with its stages. -/
theorem completes_of_stages {i : Instr} {s : State} (hi : isCommand i) (hsoft : .softreset ∉ stagesOf i) (hidle : s.pending = []) :
    Completes i s (performStages (stagesOf i) (accepted i s)) := by
  constructor
  · rw [exec_command hi, issueCommand_idle hi (busy_eq_false.mpr hidle)]
    rfl
  · exact iterate_engineStep rfl hsoft

/-! ### LEVINSON -/

/-- The state between the stages of LEVINSON. -/
def levinsonConditioned (s : State) : State := completeStage [.recurse] (performStage .condition (accepted .levinson s))

/-- The recursion comes from AC and P. -/
theorem conditionedLags_congr {s t : State} (hp : s.p = t.p) (hmem : s.mem = t.mem) : conditionedLags s = conditionedLags t := by
  have hac : acAt s = acAt t := funext fun k => by rw [acAt, acAt, wordAt, wordAt, hmem]
  rw [conditionedLags, conditionedLags, hp, hac]

theorem conditionedLags_levinsonConditioned (s : State) :
    conditionedLags (levinsonConditioned s) = conditionedLags (conditionDone s) := conditionedLags_congr rfl rfl

/-- The results of one recursion stored over what CONDITION left, whichever command performed it: CMD tells the two apart, and
NONFINITE where acceptance between them has cleared it. -/
theorem completeStage_storeRecursion_levinsonConditioned (c : Recursion) (s : State) :
    completeStage [] (storeRecursion c (levinsonConditioned s))
      = { recursionDone c (conditionDone s) with
          cmd := 0x5, nonfinite := (conditionDone s).nonfinite || (recursionDone c (conditionDone s)).nonfinite } := rfl

theorem performStages_levinson (s : State) :
    performStages [.condition, .recurse] (accepted .levinson s)
      = { recurseDone (conditionDone s) with
          cmd := 0x5, nonfinite := (conditionDone s).nonfinite || (recurseDone (conditionDone s)).nonfinite } := by
  rw [recurseDone, ← completeStage_storeRecursion_levinsonConditioned, ← conditionedLags_levinsonConditioned]
  rfl

/-- Settles O49: RECURSE reads the lags CONDITION left, and the one acceptance between them changes CMD and NONFINITE alone. -/
theorem levinsonIsItsTwoStages : Obligations.LevinsonIsItsTwoStages := fun s hidle =>
  ⟨_, _, _, completes_condition hidle, completes_recurse rfl,
    completes_of_stages (i := .levinson) (by decide) (by decide) hidle, performStages_levinson s⟩

end Sys2Proof.Machine
end

section
/-! The conditioning that changes nothing: the sum with +0 and the product with 1.0 (spec/42_levinson.md R115, spec/00_scope.md
R10). -/

namespace Sys2Proof.Machine

open Sys2Proof.Claim

/-! ### Roundings of what a word denotes already -/

/-- Words of one value are one word, the two zeros apart. -/
theorem F32.eq_of_key_eq {x y : Number} (hkey : F32.key x = F32.key y) (h : F32.sign x = F32.sign y ∨ F32.mag x ≠ 0) : x = y := by
  obtain ⟨hsign, hmag⟩ : F32.sign x = F32.sign y ∧ F32.mag x = F32.mag y := by
    unfold F32.key at hkey
    cases hx : F32.sign x <;> cases hy : F32.sign y <;> simp [hx, hy] at hkey h ⊢ <;> omega
  exact F32.eq_of_sign_of_mag hsign hmag

theorem abs_value_lt_of_isFinite {x : Number} (h : F32.isFinite x = true) : |value x| < 2 ^ 128 - 2 ^ 103 := by
  have hmag := F32.isFinite_iff.mp h
  obtain ⟨hmax, -⟩ := F32.magUnits_infMag
  have hle : F32.magUnits (F32.mag x) ≤ (2 ^ 24 - 1) * 2 ^ 253 := hmax ▸ F32.magUnits_strictMono.monotone (by omega)
  rw [abs_value, ← not_le, overflow_threshold_iff, not_le]
  calc (F32.magUnits (F32.mag x) : ℚ)
    _ ≤ ((2 ^ 24 - 1) * 2 ^ 253 : ℕ) := Nat.cast_le.mpr hle
    _ < (2 ^ 25 - 1) * 2 ^ 252 := by norm_num

/-- The rounding of a finite word's value has that value. -/
theorem key_eq_of_roundsCorrectly {x r : Number} (hx : F32.isFinite x = true) (h : RoundsCorrectly (value x) r) :
    F32.key r = F32.key x :=
  (F32.key_eq_key_iff_value r x).mpr
    (value_eq_of_roundsCorrectly h (isFinite_of_roundsCorrectly h (abs_value_lt_of_isFinite hx)) hx rfl)

/-! ### The product with 1.0 -/

theorem F32.sign_one : F32.sign F32.one = false := by decide

theorem value_one : value F32.one = 1 := by
  have hunits : F32.magUnits (F32.mag F32.one) = 1 * 2 ^ 149 := by decide
  rw [value_eq, hunits, mul_assoc, natCast_mul_unit, F32.sign_one, Nat.cast_one, mul_one]
  rfl

theorem F32.mul_right_one {x : Number} (hnan : F32.isNaN x = false) : F32.mul x F32.one = x := by
  cases hinf : F32.isInf x with
  | true =>
    have hzero : ¬(F32.isZero x = true ∨ F32.isZero F32.one = true) := by rw [F32.isZero_of_isInf hinf]; decide
    rw [F32.mul_of_isInf hnan (by decide) (.inl hinf), if_neg hzero]
    refine F32.eq_of_sign_of_mag ?_ ?_
    · rw [F32.sign_pack_infMag, F32.sign_one, Bool.bne_false]
    · rw [F32.mag_pack _ F32.infMag_lt, F32.isInf_iff.mp hinf]
  | false =>
    have hfin := F32.isFinite_of_not hnan hinf
    obtain ⟨hround, hsign⟩ := productIsCorrectlyRounded x F32.one hfin (by decide)
    rw [value_one, mul_one] at hround
    rw [F32.sign_one, Bool.bne_false] at hsign
    exact F32.eq_of_key_eq (key_eq_of_roundsCorrectly hfin hround) (.inl hsign)

/-! ### The sum with +0 -/

theorem value_zero : value F32.zero = 0 := F32.isZero_iff_value.mp (by decide)

theorem F32.eq_zero_or_eq_negZero {x : Number} (h : F32.isZero x = true) : x = F32.zero ∨ x = 0x80000000 := by
  have hmag := F32.isZero_iff.mp h
  cases hsign : F32.sign x with
  | false => exact .inl (F32.eq_of_sign_of_mag (hsign.trans (by decide)) (hmag.trans (by decide)))
  | true => exact .inr (F32.eq_of_sign_of_mag (hsign.trans (by decide)) (hmag.trans (by decide)))

/-- A sum of two zeros is −0 only for two negative ones (spec/00_scope.md R10). -/
theorem F32.add_right_zero_of_isZero {x : Number} (h : F32.isZero x = true) : F32.add x F32.zero = F32.zero := by
  have hsum : value x + value F32.zero = 0 := by rw [F32.isZero_iff_value.mp h, value_zero, add_zero]
  rw [F32.add, F32.addOr_of_sum_zero _ (F32.isFinite_of_isZero h) (by decide) hsum]
  exact if_neg fun hsigns => absurd hsigns.2 (by decide)

theorem F32.add_right_zero_of_not_isZero {x : Number} (hnan : F32.isNaN x = false) (h : F32.isZero x = false) :
    F32.add x F32.zero = x := by
  cases hinf : F32.isInf x with
  | true => exact F32.addOr_inf_finite _ hinf (by decide)
  | false =>
    have hfin := F32.isFinite_of_not hnan hinf
    have hround : RoundsCorrectly (value x + value F32.zero) (F32.add x F32.zero) := F32.addOr_roundsCorrectly _ hfin (by decide)
    rw [value_zero, add_zero] at hround
    have hmag : F32.mag x ≠ 0 := fun hmag => by rw [F32.isZero_iff.mpr hmag] at h; exact Bool.false_ne_true h.symm
    exact (F32.eq_of_key_eq (key_eq_of_roundsCorrectly hfin hround).symm (.inr hmag)).symm

/-- The sum with +0 turns −0 into +0 and leaves every other number as it is. -/
theorem F32.add_right_zero {x : Number} (hnan : F32.isNaN x = false) :
    F32.add x F32.zero = if x = 0x80000000 then F32.zero else x := by
  cases hzero : F32.isZero x with
  | true =>
    rw [F32.add_right_zero_of_isZero hzero]
    obtain rfl | rfl := F32.eq_zero_or_eq_negZero hzero <;> decide
  | false =>
    have hne : x ≠ 0x80000000 := by rintro rfl; exact absurd hzero (by decide)
    rw [F32.add_right_zero_of_not_isZero hnan hzero, if_neg hne]

/-- Settles O32: the sum with +0 changes −0 alone, the product with 1.0 nothing. -/
theorem neutralConditioning : Obligations.NeutralConditioning := by
  intro x hnan
  refine ⟨?_, F32.mul_right_one hnan⟩
  have hsum : F32.add x 0x00000000 = if x = 0x80000000 then F32.zero else x := F32.add_right_zero hnan
  rw [hsum]
  split
  · exact F32.mul_right_one (by decide)
  · exact F32.mul_right_one hnan

end Sys2Proof.Machine
end

section
/-! The engine's turn and the host's: what a scheduled step performs, what SOFTRESET leaves, and that an accepted command completes
(spec/43_control_ops.md R134 to R137). -/

namespace Sys2Proof.Machine

open Sys2Proof.Claim

/-! ### A code word's turn -/

theorem hostTurn_code {s : State} {c : CodeWord} {rest : List HostStmt} (hpin : s.pinHeld = false)
    (hprog : s.program = .code c :: rest) : hostTurn s = .run (instrOf c) { s with program := rest } := by
  simp only [hostTurn, hprog, hpin, Bool.false_eq_true, if_false]

theorem instrOf_of_decode {c : CodeWord} {i : Instr} (h : decode c = .instr i) : instrOf c = i := by
  simp only [instrOf, h]

/-- An illegal command word is issued as the CMD write that carries it (log entry 17). -/
theorem instrOf_cmd_of_reject {w : Word} {r : Reject} (h : decode (.cmd w) = .reject r) :
    instrOf (.cmd w) = .regWrite 2 0x010 w := by
  simp only [instrOf, h]

/-- Settles O53: the host's turn, scheduled or default, runs what the code word stands for. -/
theorem stepRunsTheDecodedInstruction : Obligations.StepRunsTheDecodedInstruction := by
  intro s c rest hpin hprog
  have hscheduled : ∀ ts, s.schedule = .host :: ts → step s = exec (instrOf c) { s with schedule := ts, program := rest } :=
    fun ts hsch => by
      rw [step_scheduled_host hsch, hostTurn_code (s := { s with schedule := ts }) hpin hprog, performActivity]
  refine ⟨fun i hdec => ⟨fun ts hsch => ?_, fun hsch hidle => ?_⟩, ?_⟩
  · rw [hscheduled ts hsch, instrOf_of_decode hdec]
  · rw [step_default_host hpin hsch hidle hprog, instrOf_of_decode hdec]
  · rintro w ts rfl hdec hsch
    rw [hscheduled ts hsch, instrOf_cmd_of_reject hdec]

/-! ### The engine's turn -/

/-- A scheduled turn of the engine while the pin is released (spec/00_scope.md R13): its step, which is none on an idle block. -/
theorem step_scheduled_engine {s : State} {ts : List Turn} (hpin : s.pinHeld = false) (hsch : s.schedule = .engine :: ts) :
    step s = .next (engineStep { s with schedule := ts }) := by
  rw [step_eq_performActivity]
  simp only [nextActivity, hsch, takeTurn, engineTurn, hpin, Bool.false_or]
  cases s.pending with
  | nil => simp [busy, performActivity, engineStep]
  | cons st rest => simp [busy, performActivity]

/-- SOFTRESET performed while the pin is released: the reset state with DONE, the surroundings as they were (log entry 9). -/
theorem stageSoftreset_eq {s : State} (hpin : s.pinHeld = false) :
    stageSoftreset s = { State.reset with
      done := true, program := s.program, schedule := s.schedule, pinHeld := false, response := s.response } := by
  simp only [stageSoftreset, resetBlock, hpin]

/-- Settles O55, by the inversion of the engine's step. -/
theorem engineStepPerformsTheHead : Obligations.EngineStepPerformsTheHead := by
  intro s st rest ts hpin hsch
  rw [step_scheduled_engine hpin hsch]
  refine ⟨fun hpend hst => ?_, fun hpend => ?_, fun hpend => ?_⟩
  · rw [engineStep_stage (s := { s with schedule := ts }) hpend hst, completeStage, performStage_done hst]
  · rw [← stageSoftreset_eq (s := { s with schedule := ts }) hpin]
    simp only [engineStep, hpend, if_true]
  · simp only [engineStep, hpend]

/-! ### SOFTRESET -/

/-- Settles O52: the one stage resets what acceptance left, the answer apart; a busy block turns the CMD write away. -/
theorem softresetRestoresTheResetState : Obligations.SoftresetRestoresTheResetState := by
  intro s
  refine ⟨fun hidle => ⟨?_, rfl⟩, commandWhileBusyIsTurnedAway .softreset s (by decide)⟩
  rw [exec_command (by decide), issueCommand_idle (by decide) (busy_eq_false.mpr hidle)]
  rfl

/-! ### Completion -/

/-- Each engine step takes one stage off `pending` (spec/43_control_ops.md R136). -/
theorem iterate_engineStep_pending {s : State} (h : SoftresetAlone s.pending) (k : Nat) :
    (engineStep^[k] s).pending = s.pending.drop k := by
  induction k generalizing s with
  | zero => rfl
  | succ k ih =>
    have htail := engineStep_pending h
    rw [Function.iterate_succ_apply, ih (htail ▸ h.tail), htail, List.drop_tail]

/-- The last stage sets DONE (spec/43_control_ops.md R137). -/
theorem performStages_done (st : Stage) (rest : List Stage) (s : State) : (performStages (st :: rest) s).done = true := by
  induction rest generalizing st s with
  | nil => exact Bool.or_true _
  | cons next rest ih => exact ih next _

/-- No stage but SOFTRESET changes IE (spec/10_state.md R23). -/
theorem performStages_ie {stages : List Stage} (hsoft : .softreset ∉ stages) (s : State) :
    (performStages stages s).ie = s.ie := by
  induction stages generalizing s with
  | nil => rfl
  | cons st rest ih =>
    obtain ⟨hst, hrest⟩ := List.ne_and_not_mem_of_not_mem_cons hsoft
    obtain ⟨z, d, u, f, mem, err, hstage, -⟩ := performStage_cases hst.symm s
    rw [performStages, ih hrest, completeStage_ie, hstage, noteRecursion_ie]

theorem softresetAlone_stagesOfWord (w : Word) : SoftresetAlone (stagesOfWord w) := by
  unfold stagesOfWord
  split
  · exact softresetAlone_stagesOf _
  · exact .inr List.not_mem_nil

/-- What is pending of a command is SOFTRESET by itself or has none in it. -/
theorem SoftresetAlone.suffix {l stages : List Stage} (h : SoftresetAlone stages) (hsuffix : l <:+ stages) : SoftresetAlone l := by
  obtain rfl | h := h
  · obtain rfl | hnil := List.suffix_cons_iff.mp hsuffix
    · exact .inl rfl
    · rw [List.suffix_nil.mp hnil]
      exact .inr List.not_mem_nil
  · exact .inr fun hmem => h (hsuffix.mem hmem)

/-- As many engine steps as there are stages pending end with DONE set, and IE as it was but for SOFTRESET. -/
theorem iterate_engineStep_done {s : State} (halone : SoftresetAlone s.pending) (hpend : s.pending ≠ []) :
    (engineStep^[s.pending.length] s).done = true
      ∧ (s.pending ≠ [.softreset] → (engineStep^[s.pending.length] s).ie = s.ie) := by
  obtain hsoft | hsoft := halone
  · have hstep : engineStep s = stageSoftreset s := by simp only [engineStep, hsoft, if_true]
    rw [hsoft]
    exact ⟨congrArg State.done hstep, fun hne => absurd rfl hne⟩
  · rw [iterate_engineStep rfl hsoft]
    refine ⟨?_, fun _ => performStages_ie hsoft s⟩
    obtain ⟨st, rest, hcons⟩ := List.exists_cons_of_ne_nil hpend
    rw [hcons, performStages_done]

/-- Settles O56: the default turns are the engine's while it has work, and each takes one stage off. -/
theorem acceptedCommandCompletes : Obligations.AcceptedCommandCompletes := by
  intro s hpin hsch hpend hsuffix
  have halone : SoftresetAlone s.pending := (softresetAlone_stagesOfWord s.cmd).suffix hsuffix
  obtain ⟨hdone, hie⟩ := iterate_engineStep_done halone hpend
  refine ⟨fun k hk => ⟨_, run_engineSteps hpin hsch halone hk.le, ?_⟩, _, run_engineSteps hpin hsch halone le_rfl, ?_, hdone,
    fun henabled hne => ?_⟩
  · rw [iterate_engineStep_pending halone, List.length_drop]
  · rw [iterate_engineStep_pending halone, List.drop_length]
  · rw [irq, hie hne, henabled, hdone, Bool.and_self]

end Sys2Proof.Machine
end

section
/-! ANALYZE as its four stages: a stage of a longer command against the command of that stage alone (spec/43_control_ops.md
R133). -/

namespace Sys2Proof.Machine

open Sys2Proof.Claim

/-! ### A stage of a longer command -/

/-- The state a command of the one stage `st` leaves, from its issue on. -/
def stageDone (i : Instr) (st : Stage) (s : State) : State := completeStage [] (performStage st (accepted i s))

/-- `s` while a longer command is in progress: its word in CMD, its remaining stages pending, NONFINITE with what its earlier stages
noted. -/
def during (w : Word) (rest : List Stage) (noted : Bool) (s : State) : State :=
  { s with cmd := w, pending := rest, nonfinite := noted }

/-- What a stage stores and notes depends neither on CMD nor on what is pending, and it keeps what was noted. -/
theorem performStage_during {st : Stage} (hst : st ≠ .softreset) (w : Word) (pend : List Stage) (noted : Bool) (i : Instr)
    (s : State) :
    performStage st (during w pend noted (accepted i s))
      = during w pend (noted || (stageDone i st s).nonfinite) (performStage st (accepted i s)) := by
  cases st with
  | softreset => exact absurd rfl hst
  | nop => exact congrArg (during w pend · (accepted i s)) (Bool.or_false noted).symm
  | window | autocorr | condition | recurse => rfl

/-- The next stage of the longer command finds what the next command issued by itself finds after its acceptance. -/
theorem completeStage_during {st : Stage} (hst : st ≠ .softreset) (hrec : st ≠ .recurse) (w : Word) (next : Stage)
    (rest : List Stage) (noted : Bool) (i j : Instr) (s : State) :
    completeStage (next :: rest) (performStage st (during w (st :: next :: rest) noted (accepted i s)))
      = during w (next :: rest) (noted || (stageDone i st s).nonfinite) (accepted j (stageDone i st s)) := by
  rw [performStage_during hst]
  obtain ⟨z, d, u, f, mem, err, hstage, hkept⟩ := performStage_cases hst (accepted i s)
  obtain ⟨rfl, rfl, rfl, -⟩ := hkept hrec
  rw [stageDone, hstage]
  rfl

/-- The last stage of the longer command leaves what its own command leaves, CMD and NONFINITE apart. -/
theorem completeStage_during_last {st : Stage} (hst : st ≠ .softreset) (w : Word) (noted : Bool) (i : Instr) (s : State) :
    completeStage [] (performStage st (during w [st] noted (accepted i s)))
      = { stageDone i st s with cmd := w, nonfinite := noted || (stageDone i st s).nonfinite } := by
  rw [performStage_during hst]
  rfl

/-! ### ANALYZE as its four stages -/

/-- The state the commands WINDOW, AUTOCORR, CONDITION and RECURSE leave, issued one at a time. -/
def fourCommandsDone (s : State) : State :=
  stageDone .recurse .recurse (stageDone .condition .condition (stageDone .autocorr .autocorr (stageDone .window .window s)))

theorem performStages_analyze (s : State) :
    performStages [.window, .autocorr, .condition, .recurse] (accepted .analyze s)
      = { fourCommandsDone s with
          cmd := 0x6
          nonfinite := (stageDone .window .window s).nonfinite
            || (stageDone .autocorr .autocorr (stageDone .window .window s)).nonfinite
            || (stageDone .condition .condition (stageDone .autocorr .autocorr (stageDone .window .window s))).nonfinite
            || (fourCommandsDone s).nonfinite } := by
  have hstart : accepted .analyze s = during 0x6 [.window, .autocorr, .condition, .recurse] false (accepted .window s) := rfl
  rw [hstart, performStages, completeStage_during (by decide) (by decide) (j := .autocorr), Bool.false_or, performStages,
    completeStage_during (by decide) (by decide) (j := .condition), performStages,
    completeStage_during (by decide) (by decide) (j := .recurse), performStages, completeStage_during_last (by decide)]
  rfl

/-- The state a command leaves, from its issue on. -/
def commandDone (i : Instr) (s : State) : State := performStages (stagesOf i) (accepted i s)

theorem completes_analyze {s : State} (hidle : s.pending = []) : Completes .analyze s (commandDone .analyze s) :=
  completes_of_stages (by decide) (by decide) hidle

/-- Settles O50: each stage of ANALYZE finds what its own command finds after its acceptance, CMD, `pending` and NONFINITE apart. -/
theorem analyzeIsItsFourStages : Obligations.AnalyzeIsItsFourStages := fun s hidle =>
  ⟨_, _, _, _, _, completes_of_one_stage (st := .window) rfl (by decide) hidle,
    completes_of_one_stage (st := .autocorr) rfl (by decide) rfl, completes_of_one_stage (st := .condition) rfl (by decide) rfl,
    completes_of_one_stage (st := .recurse) rfl (by decide) rfl, completes_analyze hidle, performStages_analyze s⟩

end Sys2Proof.Machine
end

section
/-! The footprints of the stages: what each reads and what each writes, and so which commands leave the second time what they left
the first time, ANALYZE among them (spec/43_control_ops.md R133, spec/20_memory.md R61). -/

namespace Sys2Proof.Machine

open Sys2Proof.Claim

/-! ### The footprint of a stage -/

/-- The offsets whose storage a stage reads: its operand arrays (spec/30_encoding.md R77). -/
def stageReads : Stage → Set Nat
  | .nop | .softreset => ∅
  | .window => Set.Ico 0x1000 0x3000
  | .autocorr => Set.Ico 0x3000 0x4000
  | .condition => Set.Ico 0x100 0x144 ∪ Set.Ico 0x180 0x1C4
  | .recurse => Set.Ico 0x100 0x144

/-- The offsets of a stage's result arrays. -/
def stageWrites : Stage → Set Nat
  | .nop => ∅
  | .window => Set.Ico 0x3000 0x4000
  | .autocorr | .condition => Set.Ico 0x100 0x144
  | .recurse => Set.Ico 0x200 0x240 ∪ Set.Ico 0x280 0x2C0
  | .softreset => Set.univ

/-- Canonical memories that read alike at the offsets `q`. -/
structure Memory.AlikeOn (q : Set Nat) (m m' : Memory) : Prop where
  wf : m.wf
  wf' : m'.wf
  read : ∀ a ∈ q, m.read a = m'.read a

theorem Memory.AlikeOn.trans {q q' : Set Nat} {m m' m'' : Memory} (h : Memory.AlikeOn q m m') (h' : Memory.AlikeOn q' m' m'') :
    Memory.AlikeOn (q ∩ q') m m'' :=
  ⟨h.wf, h'.wf', fun a ha => (h.read a ha.1).trans (h'.read a ha.2)⟩

theorem Memory.AlikeOn.mono {q q' : Set Nat} {m m' : Memory} (h : Memory.AlikeOn q m m') (hq : q' ⊆ q) : Memory.AlikeOn q' m m' :=
  ⟨h.wf, h.wf', fun a ha => h.read a (hq ha)⟩

theorem Memory.AlikeOn.readWord {q : Set Nat} {m m' : Memory} (h : Memory.AlikeOn q m m') {a : Nat} (ha : Set.Ico a (a + 4) ⊆ q) :
    m.readWord a = m'.readWord a := by
  have hbyte : ∀ b, b < 4 → m.read (a + b) = m'.read (a + b) := fun b hb => h.read _ (ha ⟨by omega, by omega⟩)
  have hfirst : m.read a = m'.read a := hbyte 0 (by decide)
  rw [Memory.readWord, Memory.readWord, hfirst, hbyte 1 (by decide), hbyte 2 (by decide), hbyte 3 (by decide)]

/-- The same words stored in both. -/
theorem Memory.AlikeOn.storeWords {q : Set Nat} {m m' : Memory} (h : Memory.AlikeOn q m m') (base : Nat) (ws : List Word) :
    Memory.AlikeOn (q ∪ Set.Ico base (base + 4 * ws.length)) (m.storeWords base ws) (m'.storeWords base ws) := by
  refine ⟨Memory.wf_storeWords h.wf base ws, Memory.wf_storeWords h.wf' base ws, fun a ha => ?_⟩
  rw [Memory.read_storeWords, Memory.read_storeWords]
  split
  · rfl
  next hout => exact h.read a (ha.resolve_right hout)

/-- Words stored in one. -/
theorem Memory.alikeOn_storeWords {m : Memory} (h : m.wf) (base : Nat) (ws : List Word) :
    Memory.AlikeOn (Set.Ico base (base + 4 * ws.length))ᶜ m (m.storeWords base ws) := by
  refine ⟨h, Memory.wf_storeWords h base ws, fun a ha => ?_⟩
  rw [Memory.read_storeWords]
  exact (if_neg ha).symm

/-- Nothing outside its results: storage that a stage does not write (spec/20_memory.md R61). -/
theorem performStage_alikeOn {s : State} (hwf : s.mem.wf) (st : Stage) :
    Memory.AlikeOn (stageWrites st)ᶜ s.mem (performStage st s).mem := by
  cases st with
  | nop => exact ⟨hwf, hwf, fun _ _ => rfl⟩
  | softreset => exact ⟨hwf, Memory.wf_nil, fun a ha => absurd (Set.mem_univ a) ha⟩
  | window =>
    refine (Memory.alikeOn_storeWords hwf xwBase _).mono (Set.compl_subset_compl.mpr ?_)
    rw [padTo_length]
    rfl
  | autocorr =>
    refine (Memory.alikeOn_storeWords hwf acBase _).mono (Set.compl_subset_compl.mpr ?_)
    rw [padTo_length]
    rfl
  | condition =>
    have hlen : (((conditionedList s).take (Config.pMax + 1)).map Number.toBits).length ≤ Config.pMax + 1 :=
      (List.length_map ..).trans_le (List.length_take_le ..)
    refine (Memory.alikeOn_storeWords hwf acBase _).mono (Set.compl_subset_compl.mpr (Set.Ico_subset_Ico_right ?_))
    exact Nat.add_le_add_left (Nat.mul_le_mul_left 4 hlen) acBase
  | recurse =>
    obtain ⟨ha, hk⟩ := recursion_length s.p (conditionedLags s)
    refine ((Memory.alikeOn_storeWords hwf lpcBase _).trans
      (Memory.alikeOn_storeWords (Memory.wf_storeWords hwf lpcBase _) rcBase _)).mono ?_
    rw [← Set.compl_union, Set.compl_subset_compl, List.length_map, List.length_map, ha, hk]
    rfl

/-! ### Runs that differ in storage and ERR -/

/-- States equal but for storage and ERR: the storage is alike at the offsets `q`, ERR where `e` says so. -/
structure State.AlikeOn (q : Set Nat) (e : Prop) (s t : State) : Prop where
  fields : t = { s with mem := t.mem, err := t.err }
  mem : Memory.AlikeOn q s.mem t.mem
  err : e → t.err = s.err

section
variable {q : Set Nat} {e : Prop} {s t : State} (h : s.AlikeOn q e t)
include h

theorem State.AlikeOn.mono {q' : Set Nat} {e' : Prop} (hq : q' ⊆ q) (he : e' → e) : s.AlikeOn q' e' t :=
  ⟨h.fields, h.mem.mono hq, fun he' => h.err (he he')⟩

theorem State.AlikeOn.eq (hq : ∀ a, a ∈ q) (he : e) : t = s := by
  have hmem : s.mem = t.mem := Memory.ext_of_wf h.mem.wf h.mem.wf' fun a => h.mem.read a (hq a)
  rw [h.fields, ← hmem, h.err he]

theorem State.AlikeOn.config :
    t.winen = s.winen ∧ t.infmt = s.infmt ∧ t.n = s.n ∧ t.p = s.p ∧ t.nfAdd = s.nfAdd ∧ t.nfMul = s.nfMul := by
  rw [h.fields]
  exact ⟨rfl, rfl, rfl, rfl, rfl, rfl⟩

theorem State.AlikeOn.wordAt {lo hi a : Nat} (hq : Set.Ico lo hi ⊆ q) (ha : lo ≤ a ∧ a + 4 ≤ hi) :
    wordAt t a = wordAt s a :=
  (h.mem.readWord ((Set.Ico_subset_Ico ha.1 ha.2).trans hq)).symm

/-- The windowed signal comes from X and WIN (spec/41_signal_ops.md R102). -/
theorem State.AlikeOn.windowedSignal (hn : s.n ≤ 1024) (hreads : stageReads .window ⊆ q) :
    windowedSignal t = windowedSignal s := by
  obtain ⟨hwinen, hinfmt, hsize, -⟩ := h.config
  rw [Machine.windowedSignal, Machine.windowedSignal, hsize]
  refine List.map_congr_left fun i hi => ?_
  have hlt : i < s.n := List.mem_range.mp hi
  have hx : xAt t i = xAt s i := h.wordAt hreads (by simp only [locOffset, xBase]; omega)
  have hwin : winAt t i = winAt s i := h.wordAt hreads (by simp only [locOffset, winBase]; omega)
  rw [windowedSample, windowedSample, hwinen, hinfmt, hx, hwin]

/-- The lags come from XW (spec/41_signal_ops.md R105). -/
theorem State.AlikeOn.rawLags (hn : s.n ≤ 1024) (hreads : stageReads .autocorr ⊆ q) : rawLags t = rawLags s := by
  obtain ⟨-, -, hsize, horder, -⟩ := h.config
  have hsignal : signal t = signal s := by
    rw [signal, signal, hsize]
    refine List.map_congr_left fun i hi => ?_
    have hlt : i < s.n := List.mem_range.mp hi
    exact h.wordAt hreads (by simp only [locOffset, xwBase]; omega)
  rw [Machine.rawLags, Machine.rawLags, horder, hsignal]

theorem State.AlikeOn.acAt (hq : stageReads .recurse ⊆ q) {k : Nat} (hk : k ≤ 16) : acAt t k = acAt s k :=
  h.wordAt hq (by simp only [locOffset, acBase]; omega)

/-- The conditioned lags come from AC and LAGW (spec/42_levinson.md R115). -/
theorem State.AlikeOn.conditionedList (hp : s.p ≤ 16) (hreads : stageReads .condition ⊆ q) :
    conditionedList t = conditionedList s := by
  obtain ⟨-, -, -, horder, hadd, hmul⟩ := h.config
  obtain ⟨hac, hlagwindow⟩ := Set.union_subset_iff.mp hreads
  rw [Machine.conditionedList, Machine.conditionedList, horder]
  refine List.map_congr_left fun k hk => ?_
  have hlt : k < s.p + 1 := List.mem_range.mp hk
  have hlagw : lagwAt t k = lagwAt s k := h.wordAt hlagwindow (by simp only [locOffset, lagwBase]; omega)
  rw [conditionedLag, conditionedLag, flooredLag0, flooredLag0, h.acAt hac (Nat.zero_le 16), h.acAt hac (by omega), hadd, hmul,
    hlagw]

/-- The recursion comes from AC (spec/42_levinson.md R122). -/
theorem State.AlikeOn.conditionedLags (hp : s.p ≤ 16) (hreads : stageReads .recurse ⊆ q) :
    conditionedLags t = conditionedLags s := by
  obtain ⟨-, -, -, horder, -⟩ := h.config
  rw [Machine.conditionedLags, Machine.conditionedLags, horder]
  exact List.map_congr_left fun k hk => h.acAt hreads (by have := List.mem_range.mp hk; omega)

theorem State.AlikeOn.noteNonfinite (b : Bool) : (noteNonfinite b s).AlikeOn q e (noteNonfinite b t) :=
  ⟨congrArg (Machine.noteNonfinite b) h.fields, h.mem, h.err⟩

theorem State.AlikeOn.completeStage (rest : List Stage) : (completeStage rest s).AlikeOn q e (completeStage rest t) :=
  ⟨congrArg (Machine.completeStage rest) h.fields, h.mem, h.err⟩

/-- The same words stored by both. -/
theorem State.AlikeOn.storeArray (base : Nat) (ws : List Word) :
    (storeArray base ws s).AlikeOn (q ∪ Set.Ico base (base + 4 * ws.length)) e (storeArray base ws t) :=
  ⟨congrArg (Machine.storeArray base ws) h.fields, h.mem.storeWords base ws, h.err⟩

/-- One result stored by both. -/
theorem State.AlikeOn.storeResult {base len : Nat} {result : State → List Number} (hresult : result t = result s) :
    (storeResult base len result s).AlikeOn (q ∪ Set.Ico base (base + 4 * len)) e (storeResult base len result t) := by
  have hstored := (h.storeArray base (padTo len (result s))).noteNonfinite (someNonfinite (result s))
  rw [padTo_length] at hstored
  rwa [Machine.storeResult, Machine.storeResult, hresult]

/-- The results of one recursion stored by both, ERR among them. -/
theorem State.AlikeOn.storeRecursion {c : Recursion} (ha : c.a.length = 16) (hk : c.k.length = 16) :
    (storeRecursion c s).AlikeOn (q ∪ stageWrites .recurse) True (storeRecursion c t) := by
  have hstored := (h.mem.storeWords lpcBase (c.a.map Number.toBits)).storeWords rcBase (c.k.map Number.toBits)
  rw [List.length_map, List.length_map, ha, hk, Set.union_assoc] at hstored
  exact ⟨congrArg (Machine.storeRecursion c) h.fields, hstored, fun _ => rfl⟩

/-- A stage that finds its operands alike leaves its results alike. -/
theorem State.AlikeOn.performStage {st : Stage} (hst : st ≠ .softreset) (hn : s.n ≤ 1024) (hp : s.p ≤ 16)
    (hreads : stageReads st ⊆ q) :
    (performStage st s).AlikeOn (q ∪ stageWrites st) (e ∨ st = .recurse) (performStage st t) := by
  cases st with
  | softreset => exact absurd rfl hst
  | nop => exact h.mono (Set.union_empty q).subset fun he => he.resolve_right (by decide)
  | window =>
    exact (h.storeResult (base := xwBase) (len := Config.nMax) (h.windowedSignal hn hreads)).mono subset_rfl
      fun he => he.resolve_right (by decide)
  | autocorr =>
    exact (h.storeResult (base := acBase) (len := Config.pMax + 1) (h.rawLags hn hreads)).mono subset_rfl
      fun he => he.resolve_right (by decide)
  | condition =>
    obtain ⟨hac, -⟩ := Set.union_subset_iff.mp hreads
    rw [Machine.performStage, Machine.performStage, stageCondition, stageCondition, h.conditionedList hp hreads]
    exact ((h.storeArray acBase _).noteNonfinite _).mono
      (Set.union_subset Set.subset_union_left (hac.trans Set.subset_union_left)) fun he => he.resolve_right (by decide)
  | recurse =>
    obtain ⟨-, -, -, horder, -⟩ := h.config
    obtain ⟨ha, hk⟩ := recursion_length s.p (Machine.conditionedLags s)
    rw [Machine.performStage, Machine.performStage, stageRecurse, stageRecurse, horder, h.conditionedLags hp hreads]
    exact (h.storeRecursion ha hk).mono subset_rfl fun _ => trivial

end

/-! ### The footprint of a command -/

/-- The offsets of the results of a list of stages. -/
def stagesWrite : List Stage → Set Nat
  | [] => ∅
  | st :: rest => stageWrites st ∪ stagesWrite rest

/-- Each stage finds its operands in `q` or among the results of the stages before it. -/
def OperandsWithin : Set Nat → List Stage → Prop
  | _, [] => True
  | q, st :: rest => stageReads st ⊆ q ∧ OperandsWithin (q ∪ stageWrites st) rest

theorem performStages_alikeOn {s : State} (hwf : s.mem.wf) (stages : List Stage) :
    Memory.AlikeOn (stagesWrite stages)ᶜ s.mem (performStages stages s).mem := by
  induction stages generalizing s with
  | nil => exact ⟨hwf, hwf, fun _ _ => rfl⟩
  | cons st rest ih =>
    have hhead := performStage_alikeOn hwf st
    have htail := ih (s := completeStage rest (performStage st s)) hhead.wf'
    rw [stagesWrite, Set.compl_union]
    exact hhead.trans htail

/-- No stage but SOFTRESET changes N or P (spec/10_state.md R24, R25). -/
theorem performStage_n_p {st : Stage} (hst : st ≠ .softreset) (s : State) :
    (performStage st s).n = s.n ∧ (performStage st s).p = s.p := by
  obtain ⟨z, d, u, f, mem, err, hstage, -⟩ := performStage_cases hst s
  rw [hstage]
  exact ⟨rfl, rfl⟩

/-- Stages that find their operands alike leave their results alike. -/
theorem State.AlikeOn.performStages {stages : List Stage} {q : Set Nat} {e : Prop} {s t : State} (h : s.AlikeOn q e t)
    (hsoft : .softreset ∉ stages) (hn : s.n ≤ 1024) (hp : s.p ≤ 16) (hoperands : OperandsWithin q stages) :
    (performStages stages s).AlikeOn (q ∪ stagesWrite stages) (e ∨ .recurse ∈ stages) (performStages stages t) := by
  induction stages generalizing q e s t with
  | nil => exact h.mono (Set.union_empty q).subset (·.resolve_right List.not_mem_nil)
  | cons st rest ih =>
    obtain ⟨hst, hrest⟩ := List.ne_and_not_mem_of_not_mem_cons hsoft
    obtain ⟨hreads, hlater⟩ := hoperands
    obtain ⟨hn', hp'⟩ := performStage_n_p hst.symm s
    have hhead := (h.performStage hst.symm hn hp hreads).completeStage rest
    refine (ih hhead hrest (hn'.trans_le hn) (hp'.trans_le hp) hlater).mono (Set.union_assoc ..).symm.subset fun he => ?_
    rwa [List.mem_cons, eq_comm, ← or_assoc] at he

/-- Acceptance sets again what the stages have changed, storage and ERR apart (spec/40_host_access.md R95). -/
theorem accepted_performStages (i : Instr) {stages : List Stage} (hsoft : .softreset ∉ stages) (s : State) :
    accepted i (performStages stages s)
      = { accepted i s with mem := (performStages stages s).mem, err := (performStages stages s).err } := by
  induction stages generalizing s with
  | nil => rfl
  | cons st rest ih =>
    obtain ⟨hst, hrest⟩ := List.ne_and_not_mem_of_not_mem_cons hsoft
    obtain ⟨z, d, u, f, mem, err, hstage, -⟩ := performStage_cases hst.symm s
    rw [performStages, ih hrest, hstage]
    rfl

/-- A command that reads none of its results before it has written them, RECURSE among its stages: the second time it leaves what it
left the first time. -/
theorem commandDone_commandDone {i : Instr} (hsoft : .softreset ∉ stagesOf i) (hrecurse : .recurse ∈ stagesOf i)
    (hoperands : OperandsWithin (stagesWrite (stagesOf i))ᶜ (stagesOf i)) {s : State} (hwf : s.mem.wf) (hn : s.n ≤ 1024)
    (hp : s.p ≤ 16) : commandDone i (commandDone i s) = commandDone i s := by
  have hagain : (accepted i s).AlikeOn (stagesWrite (stagesOf i))ᶜ False (accepted i (commandDone i s)) :=
    ⟨accepted_performStages i hsoft (accepted i s), performStages_alikeOn (s := accepted i s) hwf (stagesOf i), False.elim⟩
  have halike := hagain.performStages hsoft hn hp hoperands
  rw [Set.compl_union_self] at halike
  exact halike.eq Set.mem_univ (.inr hrecurse)

/-! ### ANALYZE again -/

/-- ANALYZE reads XW, AC and no other result of its own, each after the stage that writes it (spec/43_control_ops.md R133). -/
theorem operandsWithin_analyze : OperandsWithin (stagesWrite (stagesOf .analyze))ᶜ (stagesOf .analyze) := by
  have hinput : ∀ a, (0x180 ≤ a ∧ a < 0x1C4) ∨ (0x1000 ≤ a ∧ a < 0x3000) → a ∈ (stagesWrite (stagesOf .analyze))ᶜ := by
    intro a ha
    simp only [stagesOf, stagesWrite, stageWrites, Set.mem_compl_iff, Set.mem_union, Set.mem_Ico, Set.mem_empty_iff_false,
      or_false]
    omega
  exact ⟨fun a ha => hinput a (.inr ha), Set.subset_union_right,
    Set.union_subset Set.subset_union_right fun a ha => .inl (.inl (hinput a (.inl ha))), Set.subset_union_right, trivial⟩

/-- Settles O51: the second run finds the operands the first one found and computes the same results over them. -/
theorem analyzeTwiceGivesTheSameResults : Obligations.AnalyzeTwiceGivesTheSameResults := by
  intro s hidle hwf hn hp
  have hsecond := completes_analyze (s := commandDone .analyze s) rfl
  rw [commandDone_commandDone (by decide) (by decide) operandsWithin_analyze hwf hn hp] at hsecond
  exact ⟨_, completes_analyze hidle, hsecond⟩

end Sys2Proof.Machine
end

section
/-! The access check and the error record: which check gives an access its error (spec/60_exceptions.md R146), and what becomes of a
recorded error (R144, R145). -/

namespace Sys2Proof.Machine

open Sys2Proof.Claim

/-! ### The access check -/

/-- The check of this error is the first that an access fails (spec/60_exceptions.md R146). The last three can be the first only for
a write to an idle block, and no location fails two of them. -/
def FirstFailedCheck (we : Bool) (size : BitVec 2) (addr : Nat) (data : Word) (s : State) : ErrCode → Prop
  | .none => False
  | .size => size ≠ 2
  | .misaligned => size = 2 ∧ addr % 4 ≠ 0
  | .unmapped => size = 2 ∧ addr % 4 = 0 ∧ locate addr = none
  | .busy => size = 2 ∧ ∃ l, locate addr = some l ∧ s.pending ≠ [] ∧ allowedWhileBusy we l = false
  | .readonly => size = 2 ∧ we = true ∧ s.pending = [] ∧ ∃ l, locate addr = some l ∧ readOnly l = true
  | .badParam => size = 2 ∧ we = true ∧ s.pending = [] ∧ ∃ l, locate addr = some l ∧ outOfRange l data = true
  | .illegalCmd => size = 2 ∧ we = true ∧ s.pending = [] ∧ ∃ l, locate addr = some l ∧ illegalCommand l data = true

theorem mod_four_of_locate {a : Nat} {l : Loc} (h : locate a = some l) : a % 4 = 0 := by
  obtain ⟨rfl, -⟩ := locate_sound h
  exact locOffset_mod_four l

/-- An existing location is found at its offset alone (spec/10_state.md R21). -/
theorem locate_eq_some_iff {a : Nat} {l : Loc} (hl : locExists l = true) : locate a = some l ↔ a = locOffset l := by
  rw [registerMapExact a l, eq_comm (a := a)]
  exact and_iff_right hl

theorem outOfRange_iff {l : Loc} {v : Word} :
    outOfRange l v = true
      ↔ (l = .cfgN ∧ ¬(1 ≤ v.toNat ∧ v.toNat ≤ 1024)) ∨ (l = .cfgP ∧ ¬(1 ≤ v.toNat ∧ v.toNat ≤ 16)) := by
  simp [outOfRange, imp_iff_not_or]

theorem illegalCommand_iff {l : Loc} {v : Word} :
    illegalCommand l v = true ↔ l = .cmd ∧ decodeCmd v = .reject .illegalCmd := by
  simp [illegalCommand]

/-- The read-only locations (spec/10_state.md R21). -/
theorem readOnly_iff {l : Loc} :
    readOnly l = true ↔ l = .id ∨ l = .err ∨ (∃ j, l = .lpc j) ∨ (∃ j, l = .rc j) ∨ ∃ i, l = .xw i := by
  cases l <;> simp [readOnly]

theorem readOnly_of_outOfRange {l : Loc} {v : Word} (h : outOfRange l v = true) : readOnly l = false := by
  obtain ⟨rfl, -⟩ | ⟨rfl, -⟩ := outOfRange_iff.mp h <;> rfl

theorem allowedWhileBusy_iff {we : Bool} {a : Nat} {l : Loc} (h : locate a = some l) :
    allowedWhileBusy we l = true ↔ we = false ∧ (a = 0x014 ∨ a = 0x018) := by
  have hstatus : locate a = some .status ↔ a = 0x014 := locate_eq_some_iff rfl
  have herrinfo : locate a = some .errinfo ↔ a = 0x018 := locate_eq_some_iff rfl
  rw [← hstatus, ← herrinfo, h]
  simp [allowedWhileBusy]

section
variable {we : Bool} {size : BitVec 2} {addr : Nat} {data : Word} {s : State} {c : ErrCode}

theorem firstFailedCheck_of_error (h : accessCheck we size addr data s = .error c) :
    FirstFailedCheck we size addr data s c := by
  unfold accessCheck at h
  simp only [Bool.and_eq_true, Bool.not_eq_true'] at h
  split at h
  next hsize => cases h; exact hsize
  next hsize =>
  obtain rfl : size = 2 := not_not.mp hsize
  split at h
  next halign => cases h; exact ⟨rfl, halign⟩
  next halign =>
  split at h
  next hloc => cases h; exact ⟨rfl, not_not.mp halign, hloc⟩
  next l hloc =>
  split at h
  next hbusy =>
    obtain ⟨hbusy, hallowed⟩ := hbusy
    cases h
    exact ⟨rfl, l, hloc, busy_eq_true.mp hbusy, hallowed⟩
  next hbusy =>
  have hidle : we = true → s.pending = [] := by
    rintro rfl
    simpa [allowedWhileBusy] using hbusy
  split at h
  next hro =>
    obtain ⟨hwe, hro⟩ := hro
    cases h
    exact ⟨rfl, hwe, hidle hwe, l, hloc, hro⟩
  split at h
  next hrange =>
    obtain ⟨hwe, hrange⟩ := hrange
    cases h
    exact ⟨rfl, hwe, hidle hwe, l, hloc, hrange⟩
  split at h
  next hill =>
    obtain ⟨hwe, hill⟩ := hill
    cases h
    exact ⟨rfl, hwe, hidle hwe, l, hloc, hill⟩
  · cases h

theorem error_of_firstFailedCheck (h : FirstFailedCheck we size addr data s c) :
    accessCheck we size addr data s = .error c := by
  cases c with
  | none => exact h.elim
  | size => exact if_pos h
  | misaligned =>
    obtain ⟨rfl, halign⟩ := h
    simp [accessCheck, halign]
  | unmapped =>
    obtain ⟨rfl, halign, hloc⟩ := h
    simp [accessCheck, halign, hloc]
  | busy =>
    obtain ⟨rfl, l, hloc, hpend, hallowed⟩ := h
    simp [accessCheck, mod_four_of_locate hloc, hloc, hpend, hallowed]
  | readonly =>
    obtain ⟨rfl, rfl, hidle, l, hloc, hro⟩ := h
    simp [accessCheck, mod_four_of_locate hloc, hloc, busy_eq_false.mpr hidle, hro]
  | badParam =>
    obtain ⟨rfl, rfl, hidle, l, hloc, hrange⟩ := h
    simp [accessCheck, mod_four_of_locate hloc, hloc, busy_eq_false.mpr hidle, readOnly_of_outOfRange hrange, hrange]
  | illegalCmd =>
    obtain ⟨rfl, rfl, hidle, l, hloc, hill⟩ := h
    obtain ⟨rfl, -⟩ := illegalCommand_iff.mp hill
    simp [accessCheck, mod_four_of_locate hloc, hloc, busy_eq_false.mpr hidle, readOnly, outOfRange, hill]

/-- The access check answers the error of the first check that fails (spec/60_exceptions.md R146). -/
theorem accessCheck_eq_error_iff : accessCheck we size addr data s = .error c ↔ FirstFailedCheck we size addr data s c :=
  ⟨firstFailedCheck_of_error, error_of_firstFailedCheck⟩

theorem accessCheck_eq_busy_iff :
    accessCheck we size addr data s = .error .busy
      ↔ size = 2 ∧ locate addr ≠ none ∧ s.pending ≠ [] ∧ ¬(we = false ∧ (addr = 0x014 ∨ addr = 0x018)) := by
  rw [accessCheck_eq_error_iff, FirstFailedCheck]
  cases hloc : locate addr with
  | none => simp
  | some l => simp [← allowedWhileBusy_iff hloc]

theorem accessCheck_eq_readonly_iff :
    accessCheck we size addr data s = .error .readonly
      ↔ size = 2 ∧ we = true ∧ s.pending = []
        ∧ (locate addr = some .id ∨ locate addr = some .err ∨ (∃ j, locate addr = some (.lpc j))
            ∨ (∃ j, locate addr = some (.rc j)) ∨ ∃ i, locate addr = some (.xw i)) := by
  rw [accessCheck_eq_error_iff, FirstFailedCheck]
  cases hloc : locate addr with
  | none => simp
  | some l => simp [readOnly_iff]

theorem accessCheck_eq_badParam_iff :
    accessCheck we size addr data s = .error .badParam
      ↔ size = 2 ∧ we = true ∧ s.pending = []
        ∧ ((addr = 0x008 ∧ ¬(1 ≤ data.toNat ∧ data.toNat ≤ 1024))
            ∨ (addr = 0x00C ∧ ¬(1 ≤ data.toNat ∧ data.toNat ≤ 16))) := by
  have hcfgN : locate addr = some .cfgN ↔ addr = 0x008 := locate_eq_some_iff rfl
  have hcfgP : locate addr = some .cfgP ↔ addr = 0x00C := locate_eq_some_iff rfl
  rw [accessCheck_eq_error_iff, FirstFailedCheck, ← hcfgN, ← hcfgP]
  cases hloc : locate addr with
  | none => simp
  | some l => simp [outOfRange_iff]

theorem accessCheck_eq_illegalCmd_iff :
    accessCheck we size addr data s = .error .illegalCmd
      ↔ size = 2 ∧ we = true ∧ s.pending = [] ∧ addr = 0x010 ∧ decodeCmd data = .reject .illegalCmd := by
  have hcmd : locate addr = some .cmd ↔ addr = 0x010 := locate_eq_some_iff rfl
  rw [accessCheck_eq_error_iff, FirstFailedCheck, ← hcmd]
  simp [illegalCommand_iff]
end

/-- Settles O7: each error's condition is that of the first check that fails, with the location named by its offset. -/
theorem accessCheckPriority : Obligations.AccessCheckPriority := by
  intro we size addr data s
  refine ⟨accessCheck_eq_error_iff, accessCheck_eq_error_iff, accessCheck_eq_error_iff, accessCheck_eq_busy_iff,
    accessCheck_eq_readonly_iff, accessCheck_eq_badParam_iff, accessCheck_eq_illegalCmd_iff,
    fun h => accessCheck_error_ne_none h rfl, fun l h => ?_⟩
  obtain ⟨-, -, hloc, -⟩ := accessCheck_ok h
  exact hloc

/-! ### A rejected access -/

theorem exec_regRead_of_error {size : BitVec 2} {addr : Nat} {s : State} {c : ErrCode}
    (h : accessCheck false size addr 0 s = .error c) :
    exec (.regRead size addr) s = .next (rejected c addr false s) := by
  rw [exec_regRead, hostRead, h, ← raiseError_eq_rejected]

/-- Settles O8: an access that fails the check raises its error, and nothing else. -/
theorem rejectedAccessChangesOnlyErrInfo : Obligations.RejectedAccessChangesOnlyErrInfo := fun _ _ _ _ _ =>
  ⟨exec_regRead_of_error, exec_regWrite_of_error⟩

/-! ### The recorded error -/

/-- From `s` to `t` the record of ERRINFO stays, OVERRUN at most newly set, unless there is the cause to clear it
(spec/60_exceptions.md R145). -/
def ErrInfoKeptUnless (cause : Prop) (s t : State) : Prop :=
  (t.ecode = s.ecode ∧ t.eaddr = s.eaddr ∧ t.ewr = s.ewr ∧ (s.eovr = true → t.eovr = true))
    ∨ (t.ecode = .none ∧ t.eaddr = 0 ∧ t.ewr = false ∧ t.eovr = false ∧ cause)

theorem ErrInfoKeptUnless.mono {cause cause' : Prop} {s t : State} (h : ErrInfoKeptUnless cause s t) (hcause : cause → cause') :
    ErrInfoKeptUnless cause' s t :=
  h.imp id fun ⟨hcode, haddr, hwr, hovr, hc⟩ => ⟨hcode, haddr, hwr, hovr, hcause hc⟩

/-- An update of fields other than ERRINFO. -/
theorem ErrInfoKeptUnless.of_eq {cause : Prop} {s t : State}
    (h : t.ecode = s.ecode ∧ t.eaddr = s.eaddr ∧ t.ewr = s.ewr ∧ t.eovr = s.eovr) : ErrInfoKeptUnless cause s t :=
  have ⟨hcode, haddr, hwr, hovr⟩ := h
  .inl ⟨hcode, haddr, hwr, hovr.trans⟩

/-- A later error sets OVERRUN alone (spec/60_exceptions.md R145). -/
theorem ErrInfoKeptUnless.raiseError {cause : Prop} {s : State} (hrec : s.ecode ≠ .none) (c : ErrCode) (addr : Nat) (we : Bool) :
    ErrInfoKeptUnless cause s (raiseError c addr we s) :=
  .inl (by simp [hrec])

theorem hostRead_errInfo {s : State} (hrec : s.ecode ≠ .none) (size : BitVec 2) (addr : Nat) :
    ErrInfoKeptUnless False s (hostRead size addr s) := by
  obtain ⟨c, -, h⟩ | ⟨l, -, h⟩ := hostRead_cases size addr s <;> rw [h]
  · exact .raiseError hrec c addr false
  · exact .of_eq ⟨rfl, rfl, rfl, rfl⟩

/-- Of the accepted writes, that of ERRINFO clears the record, and no other touches it (spec/40_host_access.md R93). -/
theorem writeLoc_errInfo (l : Loc) (v : Word) (s : State) : ErrInfoKeptUnless (l = .errinfo) s (writeLoc l v s) := by
  cases l with
  | errinfo => exact .inr ⟨rfl, rfl, rfl, rfl, rfl⟩
  | id | ctrl | cfgN | cfgP | cmd | status | nfAdd | nfMul | err | ac k | lagw k | lpc k | rc k | x k | win k | xw k =>
    exact .of_eq ⟨rfl, rfl, rfl, rfl⟩

theorem hostWrite_errInfo {s : State} (hrec : s.ecode ≠ .none) (size : BitVec 2) (addr : Nat) (data : Word) :
    ErrInfoKeptUnless (s.pending = [] ∧ locate addr = some .errinfo) s (hostWrite size addr data s) := by
  obtain ⟨c, -, h⟩ | ⟨l, hok, h⟩ := hostWrite_cases size addr data s <;> rw [h]
  · exact .raiseError hrec c addr true
  · obtain ⟨-, -, hloc, hallowed, -⟩ := accessCheck_ok hok
    have hidle : s.pending = [] := by simpa [allowedWhileBusy] using hallowed
    exact (writeLoc_errInfo l data s).mono fun hl => ⟨hidle, hl ▸ hloc⟩

/-- A command writes CMD, so it clears no record. -/
theorem exec_errInfo {i : Instr} {s t : State} (hrec : s.ecode ≠ .none) (h : exec i s = .next t) :
    ErrInfoKeptUnless (s.pending = [] ∧ ∃ size addr data, i = .regWrite size addr data ∧ locate addr = some .errinfo) s t := by
  cases i with
  | regRead size addr => cases h; exact (hostRead_errInfo hrec size addr).mono False.elim
  | regWrite size addr data =>
    cases h
    exact (hostWrite_errInfo hrec size addr data).mono fun ⟨hidle, hloc⟩ => ⟨hidle, size, addr, data, rfl, hloc⟩
  | nop | window | autocorr | condition | recurse | levinson | analyze | softreset =>
    cases h
    exact (hostWrite_errInfo hrec 2 0x010 _).mono fun ⟨_, hloc⟩ => absurd hloc (by decide)

theorem engineStep_errInfo (s : State) : ErrInfoKeptUnless (s.pending.head? = some .softreset) s (engineStep s) := by
  obtain ⟨-, h⟩ | ⟨rest, hp, h⟩ | ⟨st, rest, -, hst, h⟩ := engineStep_cases s <;> rw [h]
  · exact .of_eq ⟨rfl, rfl, rfl, rfl⟩
  · exact .inr ⟨rfl, rfl, rfl, rfl, by simp [hp]⟩
  · exact .of_eq (performStage_errInfo hst s)

/-! ### The turn that clears it -/

/-- What the host runs is its next code word, or the read of STATUS that `wait` stands for (spec/30_encoding.md R82). -/
theorem issued_of_hostTurn_run {s s' : State} {i : Instr} (h : hostTurn s = .run i s') :
    i = .regRead 2 0x014 ∨ ∃ c rest, s.program = .code c :: rest ∧ instrOf c = i := by
  unfold hostTurn at h
  split at h
  · cases h
  next stmt rest hprog =>
  split at h
  · cases h
  cases stmt with
  | code c => cases h; exact .inr ⟨c, rest, hprog, rfl⟩
  | wait => cases h; exact .inl rfl

theorem hostTurn_errInfo {s t : State} (hrec : s.ecode ≠ .none) (h : performActivity (hostTurn s) = .next t) :
    ErrInfoKeptUnless (s.pending = [] ∧ ∃ c rest, s.program = .code c :: rest
      ∧ ∃ size addr data, instrOf c = .regWrite size addr data ∧ locate addr = some .errinfo) s t := by
  obtain hturn | hturn | ⟨i, prog, hturn⟩ := hostTurn_cases s <;> rw [hturn] at h
  · cases h
    exact .of_eq ⟨rfl, rfl, rfl, rfl⟩
  · cases h
  · refine (exec_errInfo (s := { s with program := prog }) hrec h).mono ?_
    rintro ⟨hidle, size, addr, data, rfl, hloc⟩
    obtain hread | ⟨c, rest, hprog, hc⟩ := issued_of_hostTurn_run hturn
    · cases hread
    · exact ⟨hidle, c, rest, hprog, size, addr, data, hc, hloc⟩

theorem engineTurn_errInfo {s t : State} (h : performActivity (engineTurn s) = .next t) :
    ErrInfoKeptUnless (s.pending.head? = some .softreset) s t := by
  unfold engineTurn at h
  split at h <;> cases h
  · exact .of_eq ⟨rfl, rfl, rfl, rfl⟩
  · exact engineStep_errInfo s

/-- The next activity is one turn: the host's, the engine's, nobody's, or an edge of the pin (spec/00_scope.md R13; log entry 1). -/
theorem nextActivity_isTurn (s : State) :
    ∃ sch, nextActivity s = hostTurn (withSurroundings s s.program sch)
      ∨ nextActivity s = engineTurn (withSurroundings s s.program sch)
      ∨ nextActivity s = .settled (withSurroundings s s.program sch)
      ∨ (s.schedule.head? = some .pinRise ∧ nextActivity s = .settled (pinRise (withSurroundings s s.program sch)))
      ∨ nextActivity s = .settled (pinFall (withSurroundings s s.program sch)) := by
  cases hsch : s.schedule with
  | nil =>
    have hs : withSurroundings s s.program [] = s := by rw [← hsch]; rfl
    refine ⟨[], ?_⟩
    rw [nextActivity, hsch, hs]
    simp only [defaultTurn]
    split
    · exact .inr (.inr (.inl rfl))
    · split
      · exact .inr (.inl rfl)
      · exact .inl rfl
  | cons turn rest =>
    refine ⟨rest, ?_⟩
    rw [nextActivity, hsch]
    cases turn with
    | host => exact .inl rfl
    | engine => exact .inr (.inl rfl)
    | pinRise => exact .inr (.inr (.inr (.inl ⟨rfl, rfl⟩)))
    | pinFall => exact .inr (.inr (.inr (.inr rfl)))

/-- Settles O25: turn by turn, what clears the record is a write of ERRINFO, SOFTRESET or the rising pin. -/
theorem firstErrorIsKept : Obligations.FirstErrorIsKept := by
  intro s t h hrec
  change ErrInfoKeptUnless _ s t
  rw [step_eq_performActivity] at h
  obtain ⟨sch, hact | hact | hact | ⟨hturn, hact⟩ | hact⟩ := nextActivity_isTurn s <;> rw [hact] at h
  · exact (hostTurn_errInfo (s := withSurroundings s s.program sch) hrec h).mono fun hwrite => .inr (.inr hwrite)
  · exact (engineTurn_errInfo (s := withSurroundings s s.program sch) h).mono fun hsoft => .inr (.inl hsoft)
  · cases h
    exact .of_eq ⟨rfl, rfl, rfl, rfl⟩
  · cases h
    exact .inr ⟨rfl, rfl, rfl, rfl, .inl hturn⟩
  · cases h
    exact .of_eq ⟨rfl, rfl, rfl, rfl⟩

end Sys2Proof.Machine
end

section
/-! The reset pin: its edges, the turns taken while it is held, and the state it leaves beside the one SOFTRESET leaves
(spec/70_reset_and_hazards.md R163, R165). -/

namespace Sys2Proof.Machine

open Sys2Proof.Claim

/-! ### Turns and the pin -/

/-- A scheduled turn is performed in the state less that turn (spec/00_scope.md R13; log entry 1). -/
theorem step_scheduled {s : State} {turn : Turn} {ts : List Turn} (h : s.schedule = turn :: ts) :
    step s = performActivity (takeTurn turn { s with schedule := ts }) := by
  rw [step_eq_performActivity, nextActivity, h]

theorem step_scheduled_pinRise {s : State} {ts : List Turn} (h : s.schedule = .pinRise :: ts) :
    step s = .next (pinRise { s with schedule := ts }) :=
  step_scheduled h

theorem step_scheduled_pinFall {s : State} {ts : List Turn} (h : s.schedule = .pinFall :: ts) :
    step s = .next (pinFall { s with schedule := ts }) :=
  step_scheduled h

/-- While the pin is held the engine has no step, whatever is pending. -/
theorem engineTurn_of_pinHeld {s : State} (hpin : s.pinHeld = true) : engineTurn s = .settled s := by
  rw [engineTurn, hpin, Bool.true_or, if_pos rfl]

theorem defaultTurn_of_pinHeld {s : State} (hpin : s.pinHeld = true) : defaultTurn s = .settled s := by
  rw [defaultTurn, if_pos hpin]

/-- A host with nothing to issue lets its turn pass. -/
theorem hostTurn_of_program_nil {s : State} (hprog : s.program = []) : hostTurn s = .settled s := by
  simp only [hostTurn, hprog]

/-- Settles O22: a rising pin resets, a held one gives its agents no move, and a falling one moves nothing else. -/
theorem resetPinAbandonsEverything : Obligations.ResetPinAbandonsEverything := by
  intro s rest
  refine ⟨step_scheduled_pinRise, fun hpin hsch => ?_, fun hpin hsch => ?_, fun _ hsch hprog => ?_, fun hpin hsch hprog => ?_,
    fun hsch => ?_⟩
  · rw [step_scheduled hsch, takeTurn, engineTurn_of_pinHeld (s := { s with schedule := rest }) hpin, performActivity]
  · rw [step_eq_performActivity, nextActivity, hsch]
    simp only [defaultTurn_of_pinHeld hpin, performActivity]
  · rw [step_scheduled_host hsch, hostTurn_of_program_nil (s := { s with schedule := rest }) hprog, performActivity]
  · exact ((nothingStopsTheBlock s).2 .accessWhileReset).mpr ⟨rfl, hpin, hprog, by rw [hsch, List.head?_cons]⟩
  · have hfall : step (pinRise { s with schedule := .pinFall :: rest })
        = .next { State.reset with program := s.program, schedule := rest, response := s.response } :=
      step_scheduled_pinFall rfl
    have hrecord : errInfoWord State.reset = 0x00000000 := by decide
    exact ⟨_, _, step_scheduled_pinRise hsch, hfall, rfl, rfl, rfl, hrecord, rfl⟩

/-! ### SOFTRESET and the pin -/

/-- The pin and the stage reset the same block, and differ in DONE and the level of the pin. -/
theorem pinRise_eq_stageSoftreset (s : State) : pinRise s = { stageSoftreset s with done := false, pinHeld := true } := rfl

/-- Settles O23: both reset the block, but SOFTRESET only once its CMD write is accepted, which a busy block rejects. -/
theorem softresetAgainstThePin : Obligations.SoftresetAgainstThePin := by
  rintro s _ _ rfl rfl
  obtain ⟨hlags, -, hsamples⟩ := arrays_of_mem_nil (t := stageSoftreset s) rfl
  have haccepted : s.pending = [] → ∃ v, exec (.regWrite 2 0x010 7) s = .next v ∧ v.pending = [.softreset] := fun hidle =>
    ⟨_, (acceptanceStartsTheCommand 7 .softreset s hidle (by decide)).1, rfl⟩
  exact ⟨pinRise_eq_stageSoftreset s, rfl, rfl, rfl, rfl, rfl, rfl, rfl, rfl, rfl, rfl, rfl, rfl,
    fun i hi => (hsamples i hi).2.2, fun k hk => (hlags k hk).2, haccepted,
    fun hpend => exec_regWrite_busy (l := .cmd) rfl hpend 7⟩

end Sys2Proof.Machine
end
